-- ==== Sys2Proof/Word.lean ====
section
/-! DEFINITION. The word types of SPN-CORE (spec/00_scope.md R5, R7). -/

namespace Sys2Proof

/-- A host register, a command word or an argument: `REG_W` = 32 bits (R5). -/
abbrev Word := BitVec 32

/-- A block, a key or a relation mask: `BLOCK_W` = 16 bits (R5). -/
abbrev Block := BitVec 16

/-- A nibble of a block: 4 bits (R7). -/
abbrev Nibble := BitVec 4

/-- An opcode: the field OPC of a command word, 8 bits (R80). -/
abbrev Opcode := BitVec 8

end Sys2Proof
end

