-- ==== Sys2Proof/Syntax.lean ====
section
/-! DEFINITION. The 21 commands of SPN-CORE, one constructor a row of spec/opcode_table.json
(spec/30_encoding.md R82). A command's data argument is no part of it: it is the argument register latched at
acceptance (R80, R81). -/

namespace Sys2Proof

/-- A command of the block. `k` is the field IDX, read as the key index (R80, R81); its range 1..5 is
`Instr.wf`'s, and the meanings of the two commands make the check R83 names (log 7). -/
inductive Instr where
  /-- NOP (R190). -/
  | nop
  /-- LDST: load a block (R104). -/
  | ldst
  /-- XORI: exclusive or with a raw 16-bit integer (R105). -/
  | xori
  /-- XORK k: exclusive or with round key k (R106). -/
  | xork (k : BitVec 4)
  /-- SUB: substitution layer (R107). -/
  | sub
  /-- ISUB: inverse substitution layer (R108). -/
  | isub
  /-- PERM: permutation layer (R109). -/
  | perm
  /-- IPERM: inverse permutation layer (R110). -/
  | iperm
  /-- GETBIT: read one bit (R111). -/
  | getbit
  /-- LDKEY k: load round key k (R140). -/
  | ldkey (k : BitVec 4)
  /-- CLRKEYS: discard the cipher instance (R141). -/
  | clrkeys
  /-- ENC: encrypt ST (R142). -/
  | enc
  /-- DEC: decrypt ST (R143). -/
  | dec
  /-- LDGK: load the guessed last-round key (R163). -/
  | ldgk
  /-- LDREL: load a linear relation (R164). -/
  | ldrel
  /-- PARTIAL: the partial last-round inverse (R165). -/
  | partialInv
  /-- CHECK: evaluate the relation on one pair (R166). -/
  | check
  /-- ACCUM: check one corpus pair and count it (R167). -/
  | accum
  /-- CLRCNT: start a new estimate (R168). -/
  | clrcnt
  /-- BIAS: the bias of the accumulated corpus (R169). -/
  | bias
  /-- CLRERR: clear the error record (R191). -/
  | clrerr
  deriving DecidableEq, Repr

end Sys2Proof
end

