-- ==== Sys2Proof/WellFormed.lean ====
section
/-! DEFINITION. The static check on a command: a key index lies in 1..5 (spec/30_encoding.md R81, R82). It is the only
field of a command, so the only check. -/

namespace Sys2Proof

/-- A key index that names one of the five round keys (R81: "legal in 1..5"). -/
def keyIndexLegal (k : BitVec 4) : Bool := decide (1 ≤ k.toNat) && decide (k.toNat ≤ 5)

/-- A command of R82 with legal fields (R84). -/
def Instr.wf : Instr → Bool
  | .xork k => keyIndexLegal k
  | .ldkey k => keyIndexLegal k
  | .nop | .ldst | .xori | .sub | .isub | .perm | .iperm | .getbit => true
  | .clrkeys | .enc | .dec | .ldgk | .ldrel | .partialInv | .check | .accum => true
  | .clrcnt | .bias | .clrerr => true

end Sys2Proof
end

