-- ==== Sys2Proof/Decode.lean ====
section
/-! DEFINITION. Decoding a command word, and encoding a command (spec/30_encoding.md R80, R82, R83, R84, R87). One
command is one 32-bit word, moved whole (spec/20_memory.md R60, R65): no byte order arises, so the decoder reads the
word and not its bytes. -/

namespace Sys2Proof

/-- OPC, bits 7:0 of a command word (R80). -/
def opcField (w : Word) : Opcode := w.extractLsb' 0 8

/-- IDX, bits 11:8 of a command word (R80). -/
def idxField (w : Word) : BitVec 4 := w.extractLsb' 8 4

/-- RSV, bits 31:12 of a command word (R80). -/
def rsvField (w : Word) : BitVec 20 := w.extractLsb' 12 20

/-- Why a word names no command (R83, R84). Each is the error IllegalCommand at completion. -/
inductive DecodeError where
  /-- OPC is not in the opcode map. -/
  | unknownOpcode
  /-- RSV is not 0. -/
  | reservedBits
  /-- IDX is not 0 in a command without a key index. -/
  | strayIndex
  deriving DecidableEq, Repr

/-- The opcode map (R82): the command an opcode names, with IDX as its key index where it has one. -/
def ofOpcode (opc : Opcode) (idx : BitVec 4) : Option Instr :=
  match opc with
  | 0x00#8 => some .nop
  | 0x01#8 => some .ldst
  | 0x02#8 => some .xori
  | 0x03#8 => some (.xork idx)
  | 0x04#8 => some .sub
  | 0x05#8 => some .isub
  | 0x06#8 => some .perm
  | 0x07#8 => some .iperm
  | 0x08#8 => some .getbit
  | 0x10#8 => some (.ldkey idx)
  | 0x11#8 => some .clrkeys
  | 0x12#8 => some .enc
  | 0x13#8 => some .dec
  | 0x20#8 => some .ldgk
  | 0x21#8 => some .ldrel
  | 0x22#8 => some .partialInv
  | 0x23#8 => some .check
  | 0x24#8 => some .accum
  | 0x25#8 => some .clrcnt
  | 0x26#8 => some .bias
  | 0x30#8 => some .clrerr
  | _ => none

/-- The commands with a key index: XORK and LDKEY (R80). -/
def Instr.usesIndex : Instr → Bool
  | .xork _ => true
  | .ldkey _ => true
  | .nop | .ldst | .xori | .sub | .isub | .perm | .iperm | .getbit => false
  | .clrkeys | .enc | .dec | .ldgk | .ldrel | .partialInv | .check | .accum => false
  | .clrcnt | .bias | .clrerr => false

/-- Decoding, in the order of R83. A key index outside 1..5 is kept in the command: its error is
ConfigurationError, which the command's meaning raises (R83's last check, log 7). -/
def decode (w : Word) : Except DecodeError Instr :=
  match ofOpcode (opcField w) (idxField w) with
  | none => .error .unknownOpcode
  | some i =>
    if rsvField w ≠ 0 then .error .reservedBits
    else if i.usesIndex = false ∧ idxField w ≠ 0 then .error .strayIndex
    else .ok i

/-- The opcode of a command (R82's first column). -/
def Instr.opcode : Instr → Opcode
  | .nop => 0x00#8
  | .ldst => 0x01#8
  | .xori => 0x02#8
  | .xork _ => 0x03#8
  | .sub => 0x04#8
  | .isub => 0x05#8
  | .perm => 0x06#8
  | .iperm => 0x07#8
  | .getbit => 0x08#8
  | .ldkey _ => 0x10#8
  | .clrkeys => 0x11#8
  | .enc => 0x12#8
  | .dec => 0x13#8
  | .ldgk => 0x20#8
  | .ldrel => 0x21#8
  | .partialInv => 0x22#8
  | .check => 0x23#8
  | .accum => 0x24#8
  | .clrcnt => 0x25#8
  | .bias => 0x26#8
  | .clrerr => 0x30#8

/-- The field IDX of a command: its key index, 0 where it has none (R80). -/
def Instr.index : Instr → BitVec 4
  | .xork k => k
  | .ldkey k => k
  | .nop | .ldst | .xori | .sub | .isub | .perm | .iperm | .getbit => 0
  | .clrkeys | .enc | .dec | .ldgk | .ldrel | .partialInv | .check | .accum => 0
  | .clrcnt | .bias | .clrerr => 0

/-- The word of a command, RSV, IDX and OPC in that order from the top (R80; R85's `enc(OP, k)`). -/
def encode (i : Instr) : Word := 0#20 ++ i.index ++ i.opcode

/-- The word that stands for an instruction whose bits are `w`, of which the opcode table numbers the lowest `nbits`;
every bit above them is 0. -/
def tableWord (nbits w : Nat) : Word := BitVec.ofNat 32 (w % 2 ^ nbits)

/-- What the decoder reads from an instruction's bits, as the opcode table numbers them: bit 0 is bit 0 of the one
32-bit word (R80). -/
def decodeTableWord (nbits w : Nat) : Option Instr :=
  match decode (tableWord nbits w) with
  | .ok i => some i
  | .error _ => none

end Sys2Proof
end

