-- ==== Sys2Proof/Config.lean ====
section
/-! DEFINITION. The parameters of the block (spec/00_scope.md R5). The two tables are what an instance may choose
(R35, spec/93_implementation_defined.md I1, I2, I16); the rest are constants. `CMD_LATENCY` and `NINST` are OPEN: the
schedule of the machine's state stands for the first (log 1, 9), a list of states for the second (log 12). -/

namespace Sys2Proof

/-- A substitution table: 16 entries of 4 bits, entry `x` being the image of nibble `x` (R36). -/
abbrev SboxTable := Vector Nibble 16

/-- A permutation table: 16 positions, entry `p - 1` being the position that position `p` goes to (R37, log 6). -/
abbrev PermTable := Vector Nat 16

/-- The tables an instance of the block is built with (R35). -/
structure Config where
  /-- SBOX (R36). -/
  sbox : SboxTable
  /-- PERM (R37). -/
  perm : PermTable
  deriving DecidableEq, Repr

/-- `ID_VALUE`, the identification word (R5, R34). -/
def Config.idValue : Word := 0x53504E01#32

/-- `TOTAL_MAX`, the most pairs a corpus may have (R5, R29). -/
def Config.totalMax : Word := 0x7FFFFFFF#32

end Sys2Proof
end

