-- ==== Sys2Proof/Machine/Tables.lean ====
section
/-! DEFINITION. The fixed tables: look-up, the self-check, the inverses and the default tables
(spec/10_state.md R35 to R39, spec/70_reset_and_hazards.md R232). -/

namespace Sys2Proof.Machine

/-- `T[x]` of a 4-bit table (R8). -/
def lookNibble (t : SboxTable) (x : Nibble) : Nibble := t[x.toNat]'x.isLt

/-- `Q[p]` of a table of positions, for a position p in 1..16 (R8, R37); 0, which is no position, for another p. -/
def lookPosition (q : PermTable) (p : Nat) : Nat := if 1 ≤ p ∧ p ≤ 16 then (q[p - 1]?).getD 0 else 0

/-- `bijective(SBOX)`: the 16 entries are pairwise distinct (R35); that each lies in 0..15 holds by width. -/
def bijectiveSbox (t : SboxTable) : Bool := decide t.toList.Nodup

/-- `bijective(PERM)`: the 16 entries are pairwise distinct and each lies in 1..16 (R35). -/
def bijectivePerm (q : PermTable) : Bool :=
  decide q.toList.Nodup && decide (∀ j ∈ q.toList, 1 ≤ j ∧ j ≤ 16)

/-- The reset self-check of both tables (R35, R232). -/
def selfCheck (sbox : SboxTable) (perm : PermTable) : Bool := bijectiveSbox sbox && bijectivePerm perm

/-- A table of nibbles with no value written yet; also SINV when the self-check failed, when it holds no value (log 4). -/
def noNibbles : SboxTable := Vector.replicate 16 0

/-- A table of positions with no value written yet; also PINV when the self-check failed (log 4). -/
def noPositions : PermTable := Vector.replicate 16 0

/-- `for x in 0..15: SINV[SBOX[x]] <- x` (R232, R38). -/
def invertSbox (t : SboxTable) : SboxTable :=
  (List.range 16).foldl
    (fun inv x => inv.setIfInBounds (lookNibble t (BitVec.ofNat 4 x)).toNat (BitVec.ofNat 4 x)) noNibbles

/-- `for i in 1..16: PINV[PERM[i]] <- i` (R232, R39). -/
def invertPerm (q : PermTable) : PermTable :=
  (List.range' 1 16).foldl (fun inv i => inv.setIfInBounds (lookPosition q i - 1) i) noPositions

/-- The default SBOX (R36; the spec's own, from general knowledge, log 5). -/
def defaultSbox : SboxTable :=
  #v[0xE#4, 0x4#4, 0xD#4, 0x1#4, 0x2#4, 0xF#4, 0xB#4, 0x8#4, 0x3#4, 0xA#4, 0x6#4, 0xC#4, 0x5#4, 0x9#4, 0x0#4, 0x7#4]

/-- The default PERM (R37; the spec's own, from general knowledge, log 5). -/
def defaultPerm : PermTable := #v[1, 5, 9, 13, 2, 6, 10, 14, 3, 7, 11, 15, 4, 8, 12, 16]

/-- The default configuration: the tables of R36 and R37. -/
def defaultConfig : Config := { sbox := defaultSbox, perm := defaultPerm }

/-- The code TableError as the reset self-check records it (R200, R232). -/
def resetErrorCode (ok : Bool) : BitVec 3 := if ok then 0 else 4

/-- The opcode the reset self-check records: 0xFF, which names no command (R201, R232). -/
def resetErrorOpcode (ok : Bool) : Opcode := if ok then 0 else 0xFF#8

end Sys2Proof.Machine
end

