-- ==== Sys2Proof/Machine/Layers.lean ====
section
/-! DEFINITION. The layer functions on blocks: nibble substitution, bit relocation, parity
(spec/40_block_ops.md R100, R101, R102, spec/42_attack.md R160, R161, spec/00_scope.md R6, R8). -/

namespace Sys2Proof.Machine

/-- `Layer(v, T)`: each nibble of v through T, in its own place, nibble 1 the most significant (R100, R7). -/
def layer (t : SboxTable) (v : Block) : Block :=
  lookNibble t (v.extractLsb' 12 4) ++ lookNibble t (v.extractLsb' 8 4) ++
    lookNibble t (v.extractLsb' 4 4) ++ lookNibble t (v.extractLsb' 0 4)

/-- `Bit(v, p)`: the bit at position p, for p in 1..16, position 1 being the most significant (R102, R6). -/
def bitAt (v : Block) (p : Nat) : Bool := v.getLsbD (16 - p)

/-- The mask `1 << (16 - p)` of a position p in 1..16 if b is 1, and 0 otherwise (R6, R101). -/
def bitTo (b : Bool) (p : Nat) : Block := if b = true ∧ 1 ≤ p ∧ p ≤ 16 then 1#16 <<< (16 - p) else 0

/-- `Move(v, Q)`: the bit at position i of v is placed at position `Q[i]` of the result (R101). -/
def move (q : PermTable) (v : Block) : Block :=
  (List.range' 1 16).foldl (fun acc i => acc ||| bitTo (bitAt v i) (lookPosition q i)) 0

/-- `parity(v)`: the exclusive or of all bits of v (R8). -/
def parity (v : Block) : Bool := (List.range 16).foldl (fun acc i => xor acc (v.getLsbD i)) false

/-- `U(c, g) = InvSubLayer(c ^ g)`, the partial last-round inverse under the inverse table `sinv` (R160). -/
def partialInverse (sinv : SboxTable) (c g : Block) : Block := layer sinv (c ^^^ g)

/-- `RelSum(p, u)` for the masks (R161). -/
def relSum (pmask umask p u : Block) : Bool := xor (parity (p &&& pmask)) (parity (u &&& umask))

/-- `RelHolds(p, u)` for the masks: the sum is 0 (R161). -/
def relHolds (pmask umask p u : Block) : Bool := !relSum pmask umask p u

end Sys2Proof.Machine
end

