-- ==== Sys2Proof/Machine/State.lean ====
section
/-! DEFINITION. The state of SPN-CORE (spec/10_state.md R20 to R41, spec/70_reset_and_hazards.md R231), the host's coming
actions, and the reasons a step can stop. -/

namespace Sys2Proof.Machine

/-- The 16 registers of the port, by name (spec/20_memory.md R61). -/
inductive PortReg where
  | cmd | arg | status | st | key1 | key2 | key3 | key4 | key5 | gkey | rel | matchCnt | total | bnum | bden | ident
  deriving DecidableEq, Repr

/-- One turn of an agent, or a change of the reset input (R11, R68, R230; log 1). -/
inductive Event where
  /-- The core agent's turn: it completes the command in flight, if there is one (R40). -/
  | core
  /-- `PortRead` of a register (R60). -/
  | read (r : PortReg)
  /-- `PortWrite` of a word to a register (R60). -/
  | write (r : PortReg) (v : Word)
  /-- A read of `size` bytes at a byte offset of the mapped port, by a system bus (R60, R67; log 10). -/
  | busRead (offset size : Nat)
  /-- A write of `size` bytes at a byte offset of the mapped port, by a system bus (R60, R67; log 10). -/
  | busWrite (offset size : Nat) (v : Word)
  /-- The reset input is asserted (R230). -/
  | resetAssert
  /-- The reset input is released (R230). -/
  | resetRelease
  deriving DecidableEq, Repr

/-- The direction bit of the encrypt/decrypt state machine (R41). -/
inductive Direction where
  | encrypt
  | decrypt
  deriving DecidableEq, Repr

/-- The encrypt/decrypt state machine's own registers (R41). No port read returns them. -/
structure Fsm where
  /-- W, the working register. -/
  w : Block
  /-- RC, the round counter, 0..4. -/
  rc : Fin 5
  /-- The direction bit. -/
  dir : Direction
  deriving DecidableEq, Repr

/-- The state of one instance of SPN-CORE. The last two fields are the model's own (log 1, log 8). -/
structure State where
  /-- ST, the working block (R22). -/
  st : Block
  /-- ARG, the argument of the next command (R23). -/
  arg : Word
  /-- KEY1..KEY5, entry `i - 1` being KEYi (R25). -/
  key : Vector Block 5
  /-- KVALID[1..5], entry `i - 1` being KVALID[i] (R26). -/
  kvalid : Vector Bool 5
  /-- GKEY, the guessed last-round key (R27). -/
  gkey : Block
  /-- GVALID (R27). -/
  gvalid : Bool
  /-- PMASK, the relation's plaintext bits (R28). -/
  pmask : Block
  /-- UMASK, the relation's intermediate-state bits (R28). -/
  umask : Block
  /-- RVALID (R28). -/
  rvalid : Bool
  /-- MATCH, the pairs whose relation held (R29). -/
  matchCnt : Word
  /-- TOTAL, the pairs accumulated (R29). -/
  total : Word
  /-- BNUM, the bias numerator (R30). -/
  bnum : Word
  /-- BDEN, the bias denominator (R30). -/
  bden : Word
  /-- BVALID (R30). -/
  bvalid : Bool
  /-- RES, the result flag (R31). -/
  res : Bool
  /-- PENDING, which BUSY mirrors (R40). -/
  pending : Bool
  /-- LCMD, the command word latched at acceptance (R40). -/
  lcmd : Word
  /-- LARG, the argument latched at acceptance (R40). -/
  larg : Word
  /-- W, RC and the direction (R41). -/
  fsm : Fsm
  /-- ERR (R32). -/
  err : Bool
  /-- ERR_OVF (R32). -/
  errOvf : Bool
  /-- ECODE (R32, R200). -/
  ecode : BitVec 3
  /-- EOP (R32). -/
  eop : Opcode
  /-- TABLES_OK (R35). -/
  tablesOk : Bool
  /-- SBOX, the configured substitution table (R36). -/
  sbox : SboxTable
  /-- PERM, the configured permutation table (R37). -/
  perm : PermTable
  /-- SINV, the inverse of SBOX (R38). -/
  sinv : SboxTable
  /-- PINV, the inverse of PERM (R39). -/
  pinv : PermTable
  /-- The reset input is asserted (R230). -/
  inReset : Bool
  /-- The coming turns of the agents, oldest first (the model's own field, log 1). -/
  schedule : List Event
  /-- The word the last `PortRead` returned to the host (the model's own field, log 8). -/
  rdata : Word
  deriving DecidableEq, Repr

/-- The reasons the machine stops with a fault: none. Every error of the block is recorded in STATUS and the machine
goes on (R204), and no rule reads a register that holds no value (log 11). -/
inductive Fault where
  deriving DecidableEq, Repr

/-- The reasons a step has no meaning. -/
inductive Refusal where
  /-- Raised by `exec` for a command not modelled yet; safe. No arm raises it. -/
  | notModelled (mnemonic : String)
  /-- Raised by a bus access that does not move exactly one whole register of the port: "a model of the block alone
  refuses them" (R67, log 10); safe. No command raises it. -/
  | notOneWholeRegister
  deriving DecidableEq, Repr

/-- The state after the reset sequence, for an instance built with the tables `c` (R231, R232). LCMD, LARG and the state
machine's registers hold no value in the spec: zero here (log 2, log 3). -/
def State.resetWith (c : Config) : State :=
  let ok := selfCheck c.sbox c.perm
  { st := 0, arg := 0, key := Vector.replicate 5 0, kvalid := Vector.replicate 5 false
    gkey := 0, gvalid := false, pmask := 0, umask := 0, rvalid := false
    matchCnt := 0, total := 0, bnum := 0, bden := 0, bvalid := false, res := false
    pending := false, lcmd := 0, larg := 0, fsm := { w := 0, rc := 0, dir := .encrypt }
    err := !ok, errOvf := false, ecode := resetErrorCode ok, eop := resetErrorOpcode ok, tablesOk := ok
    sbox := c.sbox, perm := c.perm
    sinv := if ok then invertSbox c.sbox else noNibbles
    pinv := if ok then invertPerm c.perm else noPositions
    inReset := false, schedule := [], rdata := 0 }

/-- The machine right after reset, with the default tables (R231). -/
def State.reset : State := State.resetWith defaultConfig

end Sys2Proof.Machine
end

