-- ==== Sys2Proof/Machine/Ops.lean ====
section
/-! DEFINITION. The named operations every command and every port access is built from: recording an error and clearing
the record, settling a command, latching a command (spec/60_exceptions.md R200, R204, R205, R206,
spec/10_state.md R40, spec/20_memory.md R64). -/

namespace Sys2Proof.Machine

/-- The error kinds (R200). -/
inductive ErrorKind where
  | range
  | index
  | configuration
  | table
  | illegalCommand
  | overrun
  deriving DecidableEq, Repr

/-- The code an error is recorded by in ECODE (R200). -/
def ErrorKind.code : ErrorKind → BitVec 3
  | .range => 1
  | .index => 2
  | .configuration => 3
  | .table => 4
  | .illegalCommand => 5
  | .overrun => 6

/-- `record_error(code, op)` (R205): the first error is kept, a later one only marks overflow. This is all the block does
when an error happens: it transfers no control and saves nothing else (R204). -/
def recordError (k : ErrorKind) (op : Opcode) (s : State) : State :=
  if s.err then { s with errOvf := true } else { s with err := true, ecode := k.code, eop := op }

/-- Clearing the error record, the block's only "return" from an error (R191, R206). -/
def clearErrorRecord (s : State) : State := { s with err := false, errOvf := false, ecode := 0, eop := 0 }

/-- `PENDING <- 0`: the command in flight is over (R40). LCMD and LARG keep what they hold (log 2). -/
def retire (s : State) : State := { s with pending := false }

/-- The opcode field of the command in flight, `LCMD[7:0]` (R201, R205). -/
def pendingOpcode (s : State) : Opcode := s.lcmd.extractLsb' 0 8

/-- The state after `raise E` in the command in flight: only the error record and PENDING change (R204, R205). -/
def faulted (k : ErrorKind) (s : State) : State := retire (recordError k (pendingOpcode s) s)

/-- `raise E` in the command in flight (R204, R205). -/
def raise (k : ErrorKind) (s : State) : Host.Outcome State Fault Refusal := .next (faulted k s)

/-- Completion with the result of a command's rule (R40, R204): the rule's writes all at once, or the error it raised
and none of its writes; either way PENDING <- 0 (log 9). -/
def settle (s : State) (result : Except ErrorKind State) : Host.Outcome State Fault Refusal :=
  match result with
  | .ok t => .next (retire t)
  | .error k => raise k s

/-- `PENDING <- 1; LCMD <- w; LARG <- ARG` (R64, R40). -/
def latch (w : Word) (s : State) : State := { s with pending := true, lcmd := w, larg := s.arg }

end Sys2Proof.Machine
end

