-- ==== Sys2Proof/Machine/Operands.lean ====
section
/-! DEFINITION. What a command reads: the five forms of LARG, the key index, and the shared checks
(spec/30_encoding.md R81, R83, spec/40_block_ops.md R102, spec/60_exceptions.md R201, R203). The form `none` reads
nothing and needs no function. -/

namespace Sys2Proof.Machine

/-- Bits 31:16 of a word (R81). -/
def hiBlock (w : Word) : Block := w.extractLsb' 16 16

/-- Bits 15:0 of a word (R81). -/
def loBlock (w : Word) : Block := w.extractLsb' 0 16

/-- The form `blk`, `Blk()`: a 16-bit block, or RangeError (R81, R102). -/
def blkOperand (s : State) : Except ErrorKind Block :=
  if hiBlock s.larg ≠ 0 then .error .range else .ok (loBlock s.larg)

/-- The form `pos`: a position 1..16, or IndexError (R81, R111). -/
def posOperand (s : State) : Except ErrorKind Nat :=
  if s.larg.toNat < 1 ∨ s.larg.toNat > 16 then .error .index else .ok s.larg.toNat

/-- The form `pair`: plaintext P and ciphertext C; every word is legal (R81). -/
def pairOperand (s : State) : Block × Block := (hiBlock s.larg, loBlock s.larg)

/-- The form `rel`: the masks pm and um; every word is legal (R81). -/
def relOperand (s : State) : Block × Block := (hiBlock s.larg, loBlock s.larg)

/-- The key register an index names, counted from 0, or ConfigurationError outside 1..5 (R83, R25). -/
def keyOperand (k : BitVec 4) : Except ErrorKind (Fin 5) :=
  if h : 1 ≤ k.toNat ∧ k.toNat ≤ 5 then .ok ⟨k.toNat - 1, by omega⟩ else .error .configuration

/-- A check of a rule: the error unless the condition holds. -/
def require (c : Bool) (k : ErrorKind) : Except ErrorKind Unit := if c then .ok () else .error k

/-- `NeedTables()` (R102). -/
def needTables (s : State) : Except ErrorKind Unit := require s.tablesOk .table

/-- `KVALID[1..5] = 0b11111` (R142, R143). -/
def allKeysValid (s : State) : Bool := decide (∀ i : Fin 5, s.kvalid[i] = true)

end Sys2Proof.Machine
end

