-- ==== Sys2Proof/Machine/Flags.lean ====
section
/-! DEFINITION. The result flag and the STATUS word (spec/10_state.md R31, R32, spec/42_attack.md R161). -/

namespace Sys2Proof.Machine

/-- `RES <- b` (R31). -/
def setRes (b : Bool) (s : State) : State := { s with res := b }

/-- The flag CHECK and ACCUM compute: the loaded relation holds for P and `U(C, GKEY)` (R166, R167). -/
def pairHolds (s : State) (pc : Block × Block) : Bool :=
  relHolds s.pmask s.umask pc.1 (partialInverse s.sinv pc.2 s.gkey)

/-- KVALID[5:1] as STATUS[12:8] holds it: bit `i - 1` is KVALID[i] (R26, R32). -/
def kvalidBits (s : State) : BitVec 5 :=
  BitVec.ofBool s.kvalid[4] ++ BitVec.ofBool s.kvalid[3] ++ BitVec.ofBool s.kvalid[2] ++
    BitVec.ofBool s.kvalid[1] ++ BitVec.ofBool s.kvalid[0]

/-- STATUS, put together from its fields, bit 31 first; bits 7 and 23:17 read 0 (R32). -/
def statusWord (s : State) : Word :=
  s.eop ++ 0#7 ++ BitVec.ofBool s.bvalid ++ BitVec.ofBool s.tablesOk ++ BitVec.ofBool s.rvalid ++
    BitVec.ofBool s.gvalid ++ kvalidBits s ++ 0#1 ++ s.ecode ++ BitVec.ofBool s.errOvf ++ BitVec.ofBool s.err ++
    BitVec.ofBool s.res ++ BitVec.ofBool s.pending

end Sys2Proof.Machine
end

