-- ==== Sys2Proof/Machine/Attack.lean ====
section
/-! DEFINITION. The bias estimator: LDGK, LDREL, PARTIAL, CHECK, ACCUM, CLRCNT, BIAS (spec/42_attack.md). -/

namespace Sys2Proof.Machine

/-- LDGK (R163): `b <- Blk(); GKEY <- b; GVALID <- 1`. -/
def execLdgk (s : State) : Host.Outcome State Fault Refusal :=
  settle s do
    let b ← blkOperand s
    return { s with gkey := b, gvalid := true }

/-- LDREL (R164): `PMASK <- LARG[31:16]; UMASK <- LARG[15:0]; RVALID <- 1`. -/
def execLdrel (s : State) : Host.Outcome State Fault Refusal :=
  let m := relOperand s
  settle s (.ok { s with pmask := m.1, umask := m.2, rvalid := true })

/-- PARTIAL (R165): the tables, the guess, the ciphertext; `ST <- U(c, GKEY)`. -/
def execPartialInv (s : State) : Host.Outcome State Fault Refusal :=
  settle s do
    needTables s
    require s.gvalid .configuration
    let c ← blkOperand s
    return { s with st := partialInverse s.sinv c s.gkey }

/-- The checks CHECK and ACCUM share: the tables, then the guess and the relation (R166, R167). -/
def needChecker (s : State) : Except ErrorKind Unit := do
  needTables s
  require (s.gvalid && s.rvalid) .configuration

/-- CHECK (R166): `RES <- RelHolds(P, U(C, GKEY))`. -/
def execCheck (s : State) : Host.Outcome State Fault Refusal :=
  settle s do
    needChecker s
    return setRes (pairHolds s (pairOperand s)) s

/-- A counter after one more of what it counts, if b (R167). -/
def countIf (b : Bool) (c : Word) : Word := if b then c + 1 else c

/-- ACCUM (R167): CHECK's checks, then the counter bound;
`RES <- r; TOTAL <- TOTAL + 1; MATCH <- MATCH + r; BVALID <- 0`. -/
def execAccum (s : State) : Host.Outcome State Fault Refusal :=
  settle s do
    needChecker s
    require (s.total != Config.totalMax) .configuration
    let r := pairHolds s (pairOperand s)
    return { setRes r s with total := countIf true s.total, matchCnt := countIf r s.matchCnt, bvalid := false }

/-- CLRCNT (R168): `MATCH <- 0; TOTAL <- 0; BNUM <- 0; BDEN <- 0; BVALID <- 0`. -/
def execClrcnt (s : State) : Host.Outcome State Fault Refusal :=
  settle s (.ok { s with matchCnt := 0, total := 0, bnum := 0, bden := 0, bvalid := false })

/-- `|2*MATCH - TOTAL|` of two counts (R162, R169). -/
def biasNumerator (m t : Nat) : Nat := if t ≤ 2 * m then 2 * m - t else t - 2 * m

/-- BIAS (R169): `BNUM <- |2*MATCH - TOTAL|; BDEN <- 2*TOTAL; BVALID <- 1`, computed exactly and narrowed to the 32 bits
of the registers, which lose nothing while `TOTAL <= TOTAL_MAX` (log 15). -/
def execBias (s : State) : Host.Outcome State Fault Refusal :=
  settle s do
    require (s.total != 0) .configuration
    return { s with
      bnum := BitVec.ofNat 32 (biasNumerator s.matchCnt.toNat s.total.toNat)
      bden := BitVec.ofNat 32 (2 * s.total.toNat)
      bvalid := true }

end Sys2Proof.Machine
end

