-- ==== Sys2Proof/Machine/Block.lean ====
section
/-! DEFINITION. The block operations: LDST, XORI, XORK, SUB, ISUB, PERM, IPERM, GETBIT (spec/40_block_ops.md). -/

namespace Sys2Proof.Machine

/-- LDST (R104): `b <- Blk(); ST <- b`. -/
def execLdst (s : State) : Host.Outcome State Fault Refusal :=
  settle s do
    let b ← blkOperand s
    return { s with st := b }

/-- XORI (R105): `b <- Blk(); ST <- ST ^ b`. -/
def execXori (s : State) : Host.Outcome State Fault Refusal :=
  settle s do
    let b ← blkOperand s
    return { s with st := s.st ^^^ b }

/-- XORK k (R106): the index check of R83, then KVALID[k], then `ST <- ST ^ KEYk`. -/
def execXork (k : BitVec 4) (s : State) : Host.Outcome State Fault Refusal :=
  settle s do
    let i ← keyOperand k
    require s.kvalid[i] .configuration
    return { s with st := s.st ^^^ s.key[i] }

/-- SUB (R107): `ST <- SubLayer(ST)`. -/
def execSub (s : State) : Host.Outcome State Fault Refusal :=
  settle s do
    needTables s
    return { s with st := layer s.sbox s.st }

/-- ISUB (R108): `ST <- InvSubLayer(ST)`. -/
def execIsub (s : State) : Host.Outcome State Fault Refusal :=
  settle s do
    needTables s
    return { s with st := layer s.sinv s.st }

/-- PERM (R109): `ST <- PermLayer(ST)`. -/
def execPerm (s : State) : Host.Outcome State Fault Refusal :=
  settle s do
    needTables s
    return { s with st := move s.perm s.st }

/-- IPERM (R110): `ST <- InvPermLayer(ST)`. -/
def execIperm (s : State) : Host.Outcome State Fault Refusal :=
  settle s do
    needTables s
    return { s with st := move s.pinv s.st }

/-- GETBIT (R111): `RES <- Bit(ST, p)`. -/
def execGetbit (s : State) : Host.Outcome State Fault Refusal :=
  settle s do
    let p ← posOperand s
    return setRes (bitAt s.st p) s

end Sys2Proof.Machine
end

