-- ==== Sys2Proof/Machine/Cipher.lean ====
section
/-! DEFINITION. The round keys and the encrypt/decrypt state machine: LDKEY, CLRKEYS, ENC, DEC
(spec/41_cipher.md, spec/10_state.md R41). -/

namespace Sys2Proof.Machine

/-- LDKEY k (R140): the index check of R83, then `b <- Blk(); KEYk <- b; KVALID[k] <- 1`. -/
def execLdkey (k : BitVec 4) (s : State) : Host.Outcome State Fault Refusal :=
  settle s do
    let i ← keyOperand k
    let b ← blkOperand s
    return { s with key := s.key.set i b, kvalid := s.kvalid.set i true }

/-- CLRKEYS (R141, R145): every `KEYi <- 0x0000; KVALID[i] <- 0`. DESIGN CHOICE (log 16): R20's row and R25 name LDKEY alone
as a writer of the keys, and no ruling settles it. -/
def execClrkeys (s : State) : Host.Outcome State Fault Refusal :=
  settle s (.ok { s with key := Vector.replicate 5 0, kvalid := Vector.replicate 5 false })

/-- One internal step of the state machine (R41): W takes the values of R142 and R143 in their order, and RC counts the
steps done (log 3). Encrypting, step r of 1..3 is `w <- PermLayer(SubLayer(w ^ KEYr))` and step 4 is
`w <- SubLayer(w ^ KEY4)`. Decrypting, the first step is `w <- InvSubLayer(w ^ KEY5) ^ KEY4` and the three after it
are `w <- InvSubLayer(InvPermLayer(w)) ^ KEYr` for r = 3, 2, 1. -/
def fsmAdvance (s : State) (f : Fsm) : Fsm :=
  match f.dir, f.rc.val with
  | .encrypt, 0 => { f with w := move s.perm (layer s.sbox (f.w ^^^ s.key[0])), rc := 1 }
  | .encrypt, 1 => { f with w := move s.perm (layer s.sbox (f.w ^^^ s.key[1])), rc := 2 }
  | .encrypt, 2 => { f with w := move s.perm (layer s.sbox (f.w ^^^ s.key[2])), rc := 3 }
  | .encrypt, 3 => { f with w := layer s.sbox (f.w ^^^ s.key[3]), rc := 4 }
  | .decrypt, 0 => { f with w := layer s.sinv (f.w ^^^ s.key[4]) ^^^ s.key[3], rc := 1 }
  | .decrypt, 1 => { f with w := layer s.sinv (move s.pinv f.w) ^^^ s.key[2], rc := 2 }
  | .decrypt, 2 => { f with w := layer s.sinv (move s.pinv f.w) ^^^ s.key[1], rc := 3 }
  | .decrypt, 3 => { f with w := layer s.sinv (move s.pinv f.w) ^^^ s.key[0], rc := 4 }
  | _, _ => f

/-- The state machine at the start of ENC or DEC: W holds ST (R142, R143). -/
def fsmStart (s : State) (d : Direction) : Fsm := { w := s.st, rc := 0, dir := d }

/-- The state machine after its four internal steps, which a model may take as one (R41, `ROUNDS` = 4). -/
def fsmFinal (s : State) (d : Direction) : Fsm :=
  fsmAdvance s (fsmAdvance s (fsmAdvance s (fsmAdvance s (fsmStart s d))))

/-- The checks of ENC and DEC: the tables, then all five keys (R142, R143, R203). -/
def needCipher (s : State) : Except ErrorKind Unit := do
  needTables s
  require (allKeysValid s) .configuration

/-- ENC (R142): the four rounds, then the final whitening `ST <- w ^ KEY5`. -/
def execEnc (s : State) : Host.Outcome State Fault Refusal :=
  settle s do
    needCipher s
    let f := fsmFinal s .encrypt
    return { s with st := f.w ^^^ s.key[4], fsm := f }

/-- DEC (R143): the inverse of the whitening and of the four rounds, `ST <- w`. -/
def execDec (s : State) : Host.Outcome State Fault Refusal :=
  settle s do
    needCipher s
    let f := fsmFinal s .decrypt
    return { s with st := f.w, fsm := f }

end Sys2Proof.Machine
end

