-- ==== Sys2Proof/Machine/Control.lean ====
section
/-! DEFINITION. The control commands: NOP, CLRERR (spec/43_control.md). -/

namespace Sys2Proof.Machine

/-- NOP (R190): nothing is written; the command completes like any other. -/
def execNop (s : State) : Host.Outcome State Fault Refusal := settle s (.ok s)

/-- CLRERR (R191): `ERR <- 0; ERR_OVF <- 0; ECODE <- 0; EOP <- 0`. -/
def execClrerr (s : State) : Host.Outcome State Fault Refusal := settle s (.ok (clearErrorRecord s))

end Sys2Proof.Machine
end

