-- ==== Sys2Proof/Machine/Dispatch.lean ====
section
/-! DEFINITION. The completion of a decoded command: one arm per command (spec/30_encoding.md R82). -/

namespace Sys2Proof.Machine

def exec (i : Instr) (s : State) : Host.Outcome State Fault Refusal :=
  match i with
  | .nop => Sys2Proof.Machine.execNop s
  | .ldst => Sys2Proof.Machine.execLdst s
  | .xori => Sys2Proof.Machine.execXori s
  | .xork k => Sys2Proof.Machine.execXork k s
  | .sub => Sys2Proof.Machine.execSub s
  | .isub => Sys2Proof.Machine.execIsub s
  | .perm => Sys2Proof.Machine.execPerm s
  | .iperm => Sys2Proof.Machine.execIperm s
  | .getbit => Sys2Proof.Machine.execGetbit s
  | .ldkey k => Sys2Proof.Machine.execLdkey k s
  | .clrkeys => Sys2Proof.Machine.execClrkeys s
  | .enc => Sys2Proof.Machine.execEnc s
  | .dec => Sys2Proof.Machine.execDec s
  | .ldgk => Sys2Proof.Machine.execLdgk s
  | .ldrel => Sys2Proof.Machine.execLdrel s
  | .partialInv => Sys2Proof.Machine.execPartialInv s
  | .check => Sys2Proof.Machine.execCheck s
  | .accum => Sys2Proof.Machine.execAccum s
  | .clrcnt => Sys2Proof.Machine.execClrcnt s
  | .bias => Sys2Proof.Machine.execBias s
  | .clrerr => Sys2Proof.Machine.execClrerr s

end Sys2Proof.Machine
end

