-- ==== Sys2Proof/Machine/Port.lean ====
section
/-! DEFINITION. The register port and the reset input (spec/20_memory.md R60 to R67,
spec/70_reset_and_hazards.md R230 to R232). -/

namespace Sys2Proof.Machine

/-- The index of a register at the port (R61). -/
def PortReg.index : PortReg → BitVec 4
  | .cmd => 0
  | .arg => 1
  | .status => 2
  | .st => 3
  | .key1 => 4
  | .key2 => 5
  | .key3 => 6
  | .key4 => 7
  | .key5 => 8
  | .gkey => 9
  | .rel => 10
  | .matchCnt => 11
  | .total => 12
  | .bnum => 13
  | .bden => 14
  | .ident => 15

/-- The registers in the order of their indices (R61). -/
def PortReg.all : List PortReg :=
  [.cmd, .arg, .status, .st, .key1, .key2, .key3, .key4, .key5, .gkey, .rel, .matchCnt, .total, .bnum, .bden, .ident]

/-- The register a bus access moves, where it moves exactly one whole register: 4 bytes at byte offset `4 * i` (R60,
R61, R67). -/
def busRegister (offset size : Nat) : Option PortReg :=
  if size = 4 ∧ offset % 4 = 0 then PortReg.all[offset / 4]? else none

/-- The word a read of a register returns while reset is not asserted (R61). -/
def portValue (r : PortReg) (s : State) : Word :=
  match r with
  | .cmd => 0
  | .arg => s.arg
  | .status => statusWord s
  | .st => s.st.setWidth 32
  | .key1 => s.key[0].setWidth 32
  | .key2 => s.key[1].setWidth 32
  | .key3 => s.key[2].setWidth 32
  | .key4 => s.key[3].setWidth 32
  | .key5 => s.key[4].setWidth 32
  | .gkey => s.gkey.setWidth 32
  | .rel => s.pmask ++ s.umask
  | .matchCnt => s.matchCnt
  | .total => s.total
  | .bnum => s.bnum
  | .bden => s.bden
  | .ident => Config.idValue

/-- `PortRead` (R60, R63): the host gets the register's value, or 0 while reset is asserted (R230); nothing else changes
(log 8). -/
def portRead (r : PortReg) (s : State) : State := { s with rdata := if s.inReset then 0 else portValue r s }

/-- `PortWrite(0, w)` (R64): the command is accepted, or dropped and recorded as Overrun. -/
def presentCommand (w : Word) (s : State) : State :=
  if s.pending then recordError .overrun (w.extractLsb' 0 8) s else latch w s

/-- `PortWrite` (R60, R61, R63): CMD presents a command, ARG is written, every other write is ignored, and all are while
reset is asserted (R230). -/
def portWrite (r : PortReg) (v : Word) (s : State) : State :=
  if s.inReset then s
  else
    match r with
    | .cmd => presentCommand v s
    | .arg => { s with arg := v }
    | .status | .st | .key1 | .key2 | .key3 | .key4 | .key5 | .gkey => s
    | .rel | .matchCnt | .total | .bnum | .bden | .ident => s

/-- Reset asserted (R230): a command in flight is abandoned, and the port is ignored until the release (log 13). -/
def assertReset (s : State) : State := { s with inReset := true, pending := false }

/-- Reset released (R230, R232): the reset sequence, with the tables the instance is built with. A release while reset is
not asserted is no event of the block (log 13). -/
def releaseReset (s : State) : State :=
  if s.inReset then
    { State.resetWith { sbox := s.sbox, perm := s.perm } with schedule := s.schedule, rdata := s.rdata }
  else s

end Sys2Proof.Machine
end

