-- ==== Sys2Proof/Machine/Complete.lean ====
section
/-! DEFINITION. The turns of the two agents: completing the command in flight (spec/30_encoding.md R83,
spec/10_state.md R40), and the events of the schedule (log 1). -/

namespace Sys2Proof.Machine

/-- Completion of the command in flight: LCMD is decoded, and its rule evaluated; a word that names no command raises
IllegalCommand (R83, R84). -/
def completeCommand (s : State) : Host.Outcome State Fault Refusal :=
  match decode s.lcmd with
  | .ok i => exec i s
  | .error _ => raise .illegalCommand s

/-- The core agent's turn: it acts only while PENDING = 1 (R40) and reset is not asserted; otherwise the block does
nothing (R212, R233). -/
def coreTurn (s : State) : Host.Outcome State Fault Refusal :=
  if s.pending && !s.inReset then completeCommand s else .next s

/-- A system bus's access: the port access it stands for, or a refusal where it moves no whole register (R67, log 10). -/
def busAccess (offset size : Nat) (access : PortReg → State) : Host.Outcome State Fault Refusal :=
  match busRegister offset size with
  | some r => .next (access r)
  | none => .refused .notOneWholeRegister

/-- One event, in a state from whose schedule it is taken (R11, R68). -/
def perform (e : Event) (s : State) : Host.Outcome State Fault Refusal :=
  match e with
  | .core => coreTurn s
  | .read r => .next (portRead r s)
  | .write r v => .next (portWrite r v s)
  | .busRead offset size => busAccess offset size fun r => portRead r s
  | .busWrite offset size v => busAccess offset size fun r => portWrite r v s
  | .resetAssert => .next (assertReset s)
  | .resetRelease => .next (releaseReset s)

/-- The next turn: the schedule's first event, or the core's turn when the schedule is empty (R245, log 9). -/
def nextTurn (s : State) : Host.Outcome State Fault Refusal :=
  match s.schedule with
  | [] => coreTurn s
  | e :: rest => perform e { s with schedule := rest }

/-- A command placed as the one in flight, by its word, the core's turn being next (R64, R40; log 9). -/
def placeCommand (w : Word) (s : State) : State :=
  { latch w s with inReset := false, schedule := .core :: s.schedule }

end Sys2Proof.Machine
end

