-- ==== Sys2Proof/Machine/Step.lean ====
section
/-! DEFINITION. One step of the machine, and how a command comes to be the next one run (log 1, log 9). -/

namespace Sys2Proof.Machine

/-- One step: the next turn of the schedule. -/
def step (s : State) : Host.Outcome State Fault Refusal := nextTurn s

/-- `s` with the command whose bits are `w` in flight and the core's turn next. The block fetches no instruction (R70):
this stands for the host's write of CMD, accepted (R64), with ARG as the argument. -/
def State.withFetchWord (s : State) (nbits w : Nat) : State := placeCommand (tableWord nbits w) s

end Sys2Proof.Machine
end

