-- ==== Sys2Proof/Machine/HostAsm.lean ====
section
/-! DEFINITION. The spec's host-side assembly: what each statement does at the port, as events of a schedule
(spec/30_encoding.md R85, R86, spec/42_attack.md R170; log 14). -/

namespace Sys2Proof.Machine

/-- A statement of the host-side assembly (R85). -/
inductive Stmt where
  /-- `wr ARG, v`. -/
  | wr (v : Word)
  /-- `cmd OP` or `cmd OP, k`. -/
  | cmd (i : Instr)
  /-- `cmd w` with a word written out. -/
  | cmdWord (w : Word)
  /-- `wait`: STATUS is read until BUSY is 0; `polls` is how many reads still see BUSY = 1 (`CMD_LATENCY` is open). -/
  | wait (polls : Nat)
  /-- `rd NAME`. -/
  | rd (r : PortReg)
  deriving DecidableEq, Repr

/-- The port operations of a statement, with the core's turn where the command completes (R85). -/
def Stmt.events : Stmt → List Event
  | .wr v => [.write .arg v]
  | .cmd i => [.write .cmd (encode i)]
  | .cmdWord w => [.write .cmd w]
  | .wait polls => List.replicate polls (.read .status) ++ [.core, .read .status]
  | .rd r => [.read r]

/-- A sequence of statements as a schedule (R85). -/
def scheduleOf (prog : List Stmt) : List Event := prog.flatMap Stmt.events

/-- `OP` and `XORK k`: `cmd OP; wait` (R86). -/
def pseudoPlain (polls : Nat) (i : Instr) : List Stmt := [.cmd i, .wait polls]

/-- `OP v` and `LDKEY k, v`: `wr ARG, v; cmd OP; wait` (R86). -/
def pseudoArg (polls : Nat) (i : Instr) (v : Word) : List Stmt := [.wr v, .cmd i, .wait polls]

/-- `OP P, C` and `LDREL pm, um`: the first block in bits 31:16 of ARG, the second in bits 15:0 (R86). -/
def pseudoPair (polls : Nat) (i : Instr) (hi lo : Block) : List Stmt := pseudoArg polls i (hi ++ lo)

/-- `LDKEYS k1, k2, k3, k4, k5` (R86). DESIGN CHOICE (log 14): its five waits poll the same number of times, where the spec
lets each differ (R245). -/
def pseudoLdkeys (polls : Nat) (k1 k2 k3 k4 k5 : Word) : List Stmt :=
  pseudoArg polls (.ldkey 1) k1 ++ pseudoArg polls (.ldkey 2) k2 ++ pseudoArg polls (.ldkey 3) k3 ++
    pseudoArg polls (.ldkey 4) k4 ++ pseudoArg polls (.ldkey 5) k5

/-- `ROUND k`: `XORK k; SUB; PERM` (R86). DESIGN CHOICE (log 14): its three waits poll the same number of times, where the
spec lets each differ (R245). -/
def pseudoRound (polls : Nat) (k : BitVec 4) : List Stmt :=
  pseudoPlain polls (.xork k) ++ pseudoPlain polls .sub ++ pseudoPlain polls .perm

/-- The estimate procedure for a guess, a relation and a corpus of plaintexts and ciphertexts (R170). DESIGN CHOICE
(log 14): all its waits poll the same number of times, where the spec lets each differ (R5, R245). -/
def estimateProgram (polls : Nat) (g pm um : Block) (corpus : List (Block × Block)) : List Stmt :=
  pseudoPlain polls .clrcnt ++ pseudoArg polls .ldgk (g.setWidth 32) ++ pseudoPair polls .ldrel pm um ++
    corpus.flatMap (fun pc => pseudoPair polls .accum pc.1 pc.2) ++
    pseudoPlain polls .bias ++ [.rd .bnum, .rd .bden]

end Sys2Proof.Machine
end

