-- ==== Sys2Proof/Machine/System.lean ====
section
/-! DEFINITION. Several instances of the block (spec/60_exceptions.md R210): each with its own state, sharing nothing;
`NINST` is the list's length (log 12). -/

namespace Sys2Proof.Machine

/-- The states of a system's instances, in the order the system maps them (R210). -/
abbrev System := List State

/-- A system of `n` instances, each from its own reset (R210). -/
def systemReset (n : Nat) : System := List.replicate n State.reset

/-- Instance `j` takes a step (R210). An instance the system does not have takes none. -/
def systemStep (j : Nat) (sys : System) : Host.Outcome System Fault Refusal :=
  match sys[j]? with
  | none => .next sys
  | some s =>
    match step s with
    | .next t => .next (sys.set j t)
    | .fault r => .fault r
    | .refused r => .refused r

/-- The corpus bias by the host's reduction of the counters, as numerator and denominator (R210). -/
def corpusBias (sys : System) : Nat × Nat :=
  let m := (sys.map fun s => s.matchCnt.toNat).sum
  let t := (sys.map fun s => s.total.toNat).sum
  (biasNumerator m t, 2 * t)

end Sys2Proof.Machine
end

