-- ==== Sys2Proof/Safety.lean ====
section
/-! DEFINITION. What a legal state is, and which error a command reports, in the terms the statements use
(spec/10_state.md R29, R30, R33, spec/60_exceptions.md R201, R203). Nothing here is called by the machine. -/

namespace Sys2Proof.Machine

/-- The error record takes only legal values (R33): ECODE is never 7, and ERR = 0 means an empty record. -/
def ErrorRecordLegal (s : State) : Prop :=
  s.ecode ≠ 7 ∧ (s.err = false → s.ecode = 0 ∧ s.eop = 0 ∧ s.errOvf = false)

/-- `MATCH <= TOTAL <= TOTAL_MAX` (R29). -/
def CountersBounded (s : State) : Prop :=
  s.matchCnt.toNat ≤ s.total.toNat ∧ s.total.toNat ≤ Config.totalMax.toNat

/-- BVALID = 1 means that BNUM and BDEN describe the counters as they are (R20, R30, R169). -/
def BiasCurrent (s : State) : Prop :=
  s.bvalid = true →
    s.total.toNat ≠ 0 ∧ s.bnum.toNat = biasNumerator s.matchCnt.toNat s.total.toNat ∧
      s.bden.toNat = 2 * s.total.toNat

/-- Two tables of nibbles are each other's inverses (R38). -/
def SboxInverse (t inv : SboxTable) : Prop :=
  (∀ x, lookNibble inv (lookNibble t x) = x) ∧ ∀ y, lookNibble t (lookNibble inv y) = y

/-- Two tables of positions are each other's inverses on 1..16, and stay there (R39). -/
def PermInverse (q inv : PermTable) : Prop :=
  ∀ p, 1 ≤ p → p ≤ 16 →
    (1 ≤ lookPosition q p ∧ lookPosition q p ≤ 16 ∧ lookPosition inv (lookPosition q p) = p) ∧
      (1 ≤ lookPosition inv p ∧ lookPosition inv p ≤ 16 ∧ lookPosition q (lookPosition inv p) = p)

/-- TABLES_OK is the self-check's result, and while it is 1 the inverse tables are the inverses (R35, R38, R39). -/
def TablesConsistent (s : State) : Prop :=
  s.tablesOk = selfCheck s.sbox s.perm ∧
    (s.tablesOk = true → SboxInverse s.sbox s.sinv ∧ PermInverse s.perm s.pinv)

/-- A register with a validity bit reads 0 while the bit is 0 (R231; for the keys after CLRKEYS R141, log 16). -/
def UnloadedZero (s : State) : Prop :=
  (∀ i : Fin 5, s.kvalid[i] = false → s.key[i] = 0) ∧ (s.gvalid = false → s.gkey = 0) ∧
    (s.rvalid = false → s.pmask = 0 ∧ s.umask = 0)

/-- No command is in flight while reset is asserted (R230). -/
def ResetAbandons (s : State) : Prop := s.inReset = true → s.pending = false

/-- The invariant of the machine. -/
structure State.Inv (s : State) : Prop where
  record : ErrorRecordLegal s
  counters : CountersBounded s
  bias : BiasCurrent s
  tables : TablesConsistent s
  unloaded : UnloadedZero s
  reset : ResetAbandons s

/-- The commands that read a table (R201, TableError's row). -/
def Instr.readsTable : Instr → Bool
  | .sub | .isub | .perm | .iperm | .enc | .dec | .partialInv | .check | .accum => true
  | .nop | .ldst | .xori | .xork _ | .getbit | .ldkey _ | .clrkeys | .ldgk | .ldrel | .clrcnt | .bias | .clrerr => false

/-- The commands of the form `blk`, which report RangeError (R201, RangeError's row). -/
def Instr.readsBlk : Instr → Bool
  | .ldst | .xori | .ldkey _ | .ldgk | .partialInv => true
  | .nop | .xork _ | .sub | .isub | .perm | .iperm | .getbit | .clrkeys | .enc | .dec | .ldrel | .check | .accum => false
  | .clrcnt | .bias | .clrerr => false

/-- The command of the form `pos`, which reports IndexError (R201, IndexError's row). -/
def Instr.readsPos : Instr → Bool
  | .getbit => true
  | .nop | .ldst | .xori | .xork _ | .sub | .isub | .perm | .iperm | .ldkey _ | .clrkeys | .enc | .dec => false
  | .ldgk | .ldrel | .partialInv | .check | .accum | .clrcnt | .bias | .clrerr => false

/-- A key index outside 1..5, where the command has one (R201, R203 item 2). -/
def keyIndexIllegal : Instr → Bool
  | .xork k | .ldkey k => !keyIndexLegal k
  | _ => false

/-- The keys, the guess or the relation a command needs are not loaded (R201, R203 item 4). -/
def stateMissing (i : Instr) (s : State) : Bool :=
  match i with
  | .xork k => !(s.kvalid[k.toNat - 1]?.getD false)
  | .enc | .dec => !(s.kvalid[0] && s.kvalid[1] && s.kvalid[2] && s.kvalid[3] && s.kvalid[4])
  | .partialInv => !s.gvalid
  | .check | .accum => !s.gvalid || !s.rvalid
  | _ => false

/-- The counter is full for ACCUM, or empty for BIAS (R201, R203 item 4). -/
def counterUnfit (i : Instr) (s : State) : Bool :=
  match i with
  | .accum => s.total.toNat == 0x7FFFFFFF
  | .bias => s.total.toNat == 0
  | _ => false

/-- The causes of an error in a decoded command, in the order of R203, each with the error it is reported as. -/
def errorCauses (i : Instr) (s : State) : List (Bool × ErrorKind) :=
  [(keyIndexIllegal i, .configuration),
   (Instr.readsTable i && !s.tablesOk, .table),
   (stateMissing i s, .configuration),
   (counterUnfit i s, .configuration),
   (Instr.readsBlk i && decide (65536 ≤ s.larg.toNat), .range),
   (Instr.readsPos i && (decide (s.larg.toNat < 1) || decide (16 < s.larg.toNat)), .index)]

/-- The one error a decoded command reports, the first in the order of R203, if any. -/
def reportedError (i : Instr) (s : State) : Option ErrorKind := ((errorCauses i s).find? (·.1)).map (·.2)

/-- The four fields of the error record (R32). -/
def errorRecord (s : State) : Bool × Bool × BitVec 3 × Opcode := (s.err, s.errOvf, s.ecode, s.eop)

/-- A state with another error record. -/
def withErrorRecord (s : State) (r : Bool × Bool × BitVec 3 × Opcode) : State :=
  { s with err := r.1, errOvf := r.2.1, ecode := r.2.2.1, eop := r.2.2.2 }

/-- A corpus fed pair by pair: each pair is the argument of one ACCUM (R167, R170). -/
def accumulateCorpus : List (Block × Block) → State → Host.Outcome State Fault Refusal
  | [], s => .next s
  | pc :: rest, s =>
    match exec .accum { s with larg := pc.1 ++ pc.2 } with
    | .next t => accumulateCorpus rest t
    | .fault r => .fault r
    | .refused r => .refused r

/-- `n` steps of the machine, stopping at the first fault or refusal. -/
def runSteps : Nat → State → Host.Outcome State Fault Refusal
  | 0, s => .next s
  | n + 1, s =>
    match step s with
    | .next t => runSteps n t
    | .fault r => .fault r
    | .refused r => .refused r

end Sys2Proof.Machine
end

