-- ==== Sys2Proof/Certificates/Slice0/Obligations.lean ====
section
/-! DEFINITION. The statements about SPN-CORE, from the numbered rules of spec/. -/

open Sys2Proof Sys2Proof.Machine

/-! ## Encoding and decoding -/

/-- Every word of R87's table decodes to the command it stands for, XORK and LDKEY with each index 1..5. -/
def Obligations.CommandWordsDecode : Prop :=
  (∀ p ∈ [(0x00000000#32, Instr.nop), (0x00000001#32, .ldst), (0x00000002#32, .xori), (0x00000004#32, .sub),
      (0x00000005#32, .isub), (0x00000006#32, .perm), (0x00000007#32, .iperm), (0x00000008#32, .getbit),
      (0x00000011#32, .clrkeys), (0x00000012#32, .enc), (0x00000013#32, .dec), (0x00000020#32, .ldgk),
      (0x00000021#32, .ldrel), (0x00000022#32, .partialInv), (0x00000023#32, .check), (0x00000024#32, .accum),
      (0x00000025#32, .clrcnt), (0x00000026#32, .bias), (0x00000030#32, .clrerr)],
    decode p.1 = .ok p.2) ∧
  ∀ p ∈ [(0x00000103#32, 0x00000110#32, 1#4), (0x00000203#32, 0x00000210#32, 2#4), (0x00000303#32, 0x00000310#32, 3#4),
      (0x00000403#32, 0x00000410#32, 4#4), (0x00000503#32, 0x00000510#32, 5#4)],
    decode p.1 = .ok (.xork p.2.2) ∧ decode p.2.1 = .ok (.ldkey p.2.2)

/-- Decoding an encoded command gives it back, with every value of its index, and every word has one meaning: a word
that decodes to a command is that command's word (R80, R82, R84). That XORK and LDKEY with an index outside 1..5 decode to
a command, whose meaning then raises R83's ConfigurationError, is the model's choice (log 7). -/
def Obligations.DecodeAndEncodeAgree : Prop :=
  (∀ i : Instr, decode (encode i) = .ok i) ∧ ∀ (w : Word) (i : Instr), decode w = .ok i → encode i = w

/-- The checks of R83 on the latched word, in its order, with what each raises; where none applies, the rule of the
command whose opcode the word holds is performed. -/
def Obligations.DecodingChecksTheWordInOrder : Prop :=
  ∀ s : State,
    let opc := s.lcmd.toNat % 256
    let idx := s.lcmd.toNat / 256 % 16
    let rsv := s.lcmd.toNat / 4096
    let listed := opc ≤ 0x08 ∨ (0x10 ≤ opc ∧ opc ≤ 0x13) ∨ (0x20 ≤ opc ∧ opc ≤ 0x26) ∨ opc = 0x30
    let indexed := opc = 0x03 ∨ opc = 0x10
    (¬listed → completeCommand s = .next (faulted .illegalCommand s)) ∧
    (listed → rsv ≠ 0 → completeCommand s = .next (faulted .illegalCommand s)) ∧
    (listed → rsv = 0 → ¬indexed → idx ≠ 0 → completeCommand s = .next (faulted .illegalCommand s)) ∧
    (rsv = 0 → indexed → (idx < 1 ∨ 5 < idx) → completeCommand s = .next (faulted .configuration s)) ∧
    (listed → rsv = 0 → (indexed → 1 ≤ idx ∧ idx ≤ 5) → (¬indexed → idx = 0) →
      ∃ i : Instr, i.wf = true ∧ i.opcode.toNat = opc ∧ i.index.toNat = idx ∧ completeCommand s = exec i s)

/-! ## Steps -/

/-- While a command is in flight and reset is not asserted, the core's turn (scheduled, or taken when nothing is
scheduled) runs exactly the meaning of the command LCMD decodes to; the schedule loses the turn. -/
def Obligations.StepRunsTheDecodedCommand : Prop :=
  ∀ (s : State) (i : Instr), s.pending = true → s.inReset = false → decode s.lcmd = .ok i →
    (s.schedule = [] → step s = exec i s) ∧
    ∀ rest, s.schedule = .core :: rest → step s = exec i { s with schedule := rest }

/-- A command placed by its table word is the very next to run: in the state where it has just been accepted, with ARG
as its argument. -/
def Obligations.PlacedWordRunsNext : Prop :=
  ∀ (s : State) (w : Nat) (i : Instr), decodeTableWord 32 w = some i →
    step (s.withFetchWord 32 w) = exec i { latch (BitVec.ofNat 32 w) s with inReset := false }

/-- No step stops the machine but a bus access that is not one whole register of the port: every command, legal or not,
every port access and every change of the reset input has a next state. The refusal of the other bus accesses is the
model's reading of R67 (log 10). -/
def Obligations.StepStopsOnlyOnPartialBusAccess : Prop :=
  ∀ s : State,
    (∃ t, step s = .next t) ∨
    (step s = .refused .notOneWholeRegister ∧
      ∃ offset size rest, ¬(size = 4 ∧ offset % 4 = 0 ∧ offset < 64) ∧
        (s.schedule = .busRead offset size :: rest ∨ ∃ v, s.schedule = .busWrite offset size v :: rest))

/-- With no command in flight, and with nothing scheduled, the block does nothing (R212, R233). -/
def Obligations.IdleBlockDoesNothing : Prop :=
  ∀ s : State, s.pending = false →
    (s.schedule = [] → step s = .next s) ∧
    ∀ rest, s.schedule = .core :: rest → step s = .next { s with schedule := rest }

/-! ## Errors -/

/-- R205 and R200: the first error is kept with its code and opcode, a later one only sets ERR_OVF; `raise` records the
opcode field of LCMD, ends the command and writes nothing else; the codes, of which 7 is none. -/
def Obligations.FirstErrorIsRecorded : Prop :=
  (∀ (k : ErrorKind) (op : Opcode) (s : State),
    (s.err = false → recordError k op s = { s with err := true, ecode := k.code, eop := op }) ∧
    (s.err = true → recordError k op s = { s with errOvf := true })) ∧
  (∀ (k : ErrorKind) (s : State),
    faulted k s = { recordError k (s.lcmd.extractLsb' 0 8) s with pending := false }) ∧
  ErrorKind.range.code = 1 ∧ ErrorKind.index.code = 2 ∧ ErrorKind.configuration.code = 3 ∧
  ErrorKind.table.code = 4 ∧ ErrorKind.illegalCommand.code = 5 ∧ ErrorKind.overrun.code = 6 ∧
  ∀ k : ErrorKind, k.code ≠ 0 ∧ k.code ≠ 7

/-- R203 with R201's causes: a word that names no command is IllegalCommand whatever else applies; of the errors that
apply to a decoded command exactly the first in the order of R203 is reported, and the command changes nothing else;
where none applies, it completes and records none. -/
def Obligations.FirstApplicableErrorIsReported : Prop :=
  (∀ (s : State) (e : DecodeError), decode s.lcmd = .error e →
    completeCommand s = .next (faulted .illegalCommand s)) ∧
  ∀ (i : Instr) (s : State),
    (∀ k, reportedError i s = some k → exec i s = .next (faulted k s)) ∧
    (reportedError i s = none →
      ∃ t, exec i s = .next t ∧ t.pending = false ∧ (i ≠ .clrerr → errorRecord t = errorRecord s))

/-- R204: a command that faults, by its word or by a check of its rule, completes having written only the error record:
everything but the record and PENDING is as before. -/
def Obligations.ErrorsArePrecise : Prop :=
  ∀ s : State,
    ((∃ e, decode s.lcmd = .error e) ∨ ∃ i k, decode s.lcmd = .ok i ∧ reportedError i s = some k) →
    ∃ t, completeCommand s = .next t ∧ t.pending = false ∧ t.err = true ∧
      t = withErrorRecord { s with pending := false } (errorRecord t)

/-- R206: what a command does to everything but the error record does not depend on the record, and a command is
accepted whatever the record holds. -/
def Obligations.ErrorsDoNotBlockLaterCommands : Prop :=
  (∀ (s t : State) (r : Bool × Bool × BitVec 3 × Opcode), completeCommand s = .next t →
    ∃ q, completeCommand (withErrorRecord s r) = .next (withErrorRecord t q)) ∧
  ∀ (s : State) (w : Word) (r : Bool × Bool × BitVec 3 × Opcode), s.pending = false →
    presentCommand w (withErrorRecord s r) = withErrorRecord (latch w s) r

/-- R206: while an error is recorded, its code and opcode stay, through every step, until CLRERR completes or reset is
released; ERR_OVF never goes back to 0 meanwhile. -/
def Obligations.FirstErrorStaysUntilCleared : Prop :=
  ∀ s t : State, s.err = true → step s = .next t →
    (t.err = true ∧ t.ecode = s.ecode ∧ t.eop = s.eop ∧ (s.errOvf = true → t.errOvf = true)) ∨
    (s.pending = true ∧ s.inReset = false ∧ decode s.lcmd = .ok .clrerr ∧
      (s.schedule = [] ∨ s.schedule.head? = some .core)) ∨
    (s.inReset = true ∧ s.schedule.head? = some .resetRelease)

/-! ## Block operations -/

/-- R190: NOP completes and changes nothing else; its word with another IDX or RSV is IllegalCommand; and NOP is the
only command that acts as a no-op in every state. -/
def Obligations.NopOnlyCompletes : Prop :=
  encode .nop = 0x00000000#32 ∧
  (∀ s : State, exec .nop s = .next { s with pending := false }) ∧
  (∀ s : State, s.lcmd.toNat % 256 = 0 → s.lcmd ≠ 0 → completeCommand s = .next (faulted .illegalCommand s)) ∧
  ∀ i : Instr, (∀ s : State, exec i s = .next { s with pending := false }) → i = .nop

/-- R104: LDST loads an argument in range into ST, and reports RangeError otherwise. -/
def Obligations.LdstLoadsTheBlock : Prop :=
  encode .ldst = 0x00000001#32 ∧ ∀ s : State,
    (s.larg.toNat < 65536 → exec .ldst s = .next { s with st := s.larg.setWidth 16, pending := false }) ∧
    (65536 ≤ s.larg.toNat → exec .ldst s = .next (faulted .range s))

/-- R105: XORI adds an argument in range into ST, and reports RangeError otherwise. -/
def Obligations.XoriAddsTheBlock : Prop :=
  encode .xori = 0x00000002#32 ∧ ∀ s : State,
    (s.larg.toNat < 65536 →
      exec .xori s = .next { s with st := s.st ^^^ s.larg.setWidth 16, pending := false }) ∧
    (65536 ≤ s.larg.toNat → exec .xori s = .next (faulted .range s))

/-- R106: XORK k adds a loaded round key into ST, twice restoring it; an index outside 1..5 or a key not loaded is
ConfigurationError. -/
def Obligations.XorkAddsTheRoundKey : Prop :=
  (∀ k : BitVec 4, encode (.xork k) = k.setWidth 32 <<< 8 ||| 0x03#32) ∧ ∀ (s : State) (k : BitVec 4),
    (k.toNat < 1 ∨ 5 < k.toNat → exec (.xork k) s = .next (faulted .configuration s)) ∧
    ∀ i : Fin 5, k.toNat = i.val + 1 →
      (s.kvalid[i] = false → exec (.xork k) s = .next (faulted .configuration s)) ∧
      (s.kvalid[i] = true → ∃ t, exec (.xork k) s = .next t ∧
        t = { s with st := s.st ^^^ s.key[i], pending := false } ∧ exec (.xork k) t = .next { t with st := s.st })

/-- R107, R100: SUB puts each nibble of ST through SBOX, in its place; with the default SBOX it has the corner cases and
the example of R107 (the spec derives them from R36, whose table is general knowledge, log 5). -/
def Obligations.SubSubstitutesEachNibble : Prop :=
  encode .sub = 0x00000004#32 ∧ ∀ s : State,
    (s.tablesOk = false → exec .sub s = .next (faulted .table s)) ∧
    (s.tablesOk = true → ∃ b : Block, exec .sub s = .next { s with st := b, pending := false } ∧
      (∀ n, n < 4 → b.extractLsb' (4 * n) 4 = lookNibble s.sbox (s.st.extractLsb' (4 * n) 4)) ∧
      (s.sbox = defaultSbox →
        (s.st = 0x0000#16 → b = 0xEEEE#16) ∧ (s.st = 0xFFFF#16 → b = 0x7777#16) ∧ (s.st = 0xABCD#16 → b = 0x6C59#16) ∧
        ∀ n, n < 4 → b.extractLsb' (4 * n) 4 ≠ s.st.extractLsb' (4 * n) 4))

/-- R108, R100: ISUB puts each nibble of ST through SINV, in its place; after SUB it restores ST, where the inverse
table is the inverse. The values under the default table are the spec's derivation from R38 (log 5). -/
def Obligations.IsubSubstitutesInversely : Prop :=
  encode .isub = 0x00000005#32 ∧ ∀ s : State,
    (s.tablesOk = false → exec .isub s = .next (faulted .table s)) ∧
    (s.tablesOk = true → ∃ b : Block, exec .isub s = .next { s with st := b, pending := false } ∧
      (∀ n, n < 4 → b.extractLsb' (4 * n) 4 = lookNibble s.sinv (s.st.extractLsb' (4 * n) 4)) ∧
      (s.sinv = invertSbox defaultSbox →
        (s.st = 0x0000#16 → b = 0xEEEE#16) ∧ (s.st = 0xFFFF#16 → b = 0x5555#16) ∧ (s.st = 0x6C59#16 → b = 0xABCD#16))) ∧
    (s.tablesOk = true → TablesConsistent s → ∃ t, exec .sub s = .next t ∧ exec .isub t = .next { t with st := s.st })

/-- R109, R101: PERM moves the bit at position i of ST to position PERM[i]; 0x0000 is fixed under every table and 0xFFFF
under every bijection, and the default table has the corner cases and the examples of R109 (the spec derives them from
R37, whose table is general knowledge, log 5). -/
def Obligations.PermMovesEachBit : Prop :=
  encode .perm = 0x00000006#32 ∧ ∀ s : State,
    (s.tablesOk = false → exec .perm s = .next (faulted .table s)) ∧
    (s.tablesOk = true → ∃ b : Block, exec .perm s = .next { s with st := b, pending := false } ∧
      (∀ j, 1 ≤ j → j ≤ 16 →
        (b.getLsbD (16 - j) = true ↔
          ∃ i, 1 ≤ i ∧ i ≤ 16 ∧ lookPosition s.perm i = j ∧ s.st.getLsbD (16 - i) = true)) ∧
      (s.st = 0x0000#16 → b = 0x0000#16) ∧ (bijectivePerm s.perm = true → s.st = 0xFFFF#16 → b = 0xFFFF#16) ∧
      (s.perm = defaultPerm →
        (s.st = 0x8421#16 → b = 0x8421#16) ∧ (s.st = 0xF000#16 → b = 0x8888#16) ∧ (s.st = 0x0F00#16 → b = 0x4444#16) ∧
        ∃ t u, exec .perm s = .next t ∧ exec .perm t = .next u ∧ u.st = s.st))

/-- R110, R101: IPERM moves the bit at position i of ST to position PINV[i]; after PERM it restores ST, where the
inverse table is the inverse. The clauses under the default table are the spec's derivation from R39 (log 5). -/
def Obligations.IpermMovesEachBitBack : Prop :=
  encode .iperm = 0x00000007#32 ∧ ∀ s : State,
    (s.tablesOk = false → exec .iperm s = .next (faulted .table s)) ∧
    (s.tablesOk = true → ∃ b : Block, exec .iperm s = .next { s with st := b, pending := false } ∧
      (∀ j, 1 ≤ j → j ≤ 16 →
        (b.getLsbD (16 - j) = true ↔
          ∃ i, 1 ≤ i ∧ i ≤ 16 ∧ lookPosition s.pinv i = j ∧ s.st.getLsbD (16 - i) = true)) ∧
      (s.pinv = invertPerm defaultPerm → s.st = 0x8888#16 → b = 0xF000#16) ∧
      (s.perm = defaultPerm → s.pinv = invertPerm defaultPerm →
        ∃ t, exec .perm s = .next t ∧ t.st = b)) ∧
    (s.tablesOk = true → TablesConsistent s →
      ∃ t, exec .perm s = .next t ∧ exec .iperm t = .next { t with st := s.st })

/-- R111: GETBIT writes the bit at the position LARG names to RES, position 1 being bit 15, and leaves ST; another
position is IndexError, never RangeError. -/
def Obligations.GetbitReadsThePosition : Prop :=
  encode .getbit = 0x00000008#32 ∧ ∀ s : State,
    (1 ≤ s.larg.toNat → s.larg.toNat ≤ 16 →
      exec .getbit s = .next { s with res := s.st.getLsbD (16 - s.larg.toNat), pending := false }) ∧
    (s.larg.toNat < 1 ∨ 16 < s.larg.toNat → exec .getbit s = .next (faulted .index s))

/-! ## Keys and the cipher -/

/-- R140: LDKEY k writes KEYk and KVALID[k] and no other key; an index outside 1..5 is ConfigurationError, also where
the argument is out of range, and an argument out of range is RangeError. -/
def Obligations.LdkeyLoadsOneKey : Prop :=
  (∀ k : BitVec 4, encode (.ldkey k) = k.setWidth 32 <<< 8 ||| 0x10#32) ∧ ∀ (s : State) (k : BitVec 4),
    (k.toNat < 1 ∨ 5 < k.toNat → exec (.ldkey k) s = .next (faulted .configuration s)) ∧
    ∀ i : Fin 5, k.toNat = i.val + 1 →
      (65536 ≤ s.larg.toNat → exec (.ldkey k) s = .next (faulted .range s)) ∧
      (s.larg.toNat < 65536 → ∃ (ks : Vector Block 5) (vs : Vector Bool 5),
        exec (.ldkey k) s = .next { s with key := ks, kvalid := vs, pending := false } ∧
        ks[i] = s.larg.setWidth 16 ∧ vs[i] = true ∧
        ∀ j : Fin 5, j ≠ i → ks[j] = s.key[j] ∧ vs[j] = s.kvalid[j])

/-- R141: CLRKEYS clears the five keys and their validity bits and nothing else; with no key loaded it changes nothing
visible; ENC after it is ConfigurationError. That the keys themselves are written is the model's choice of R141 and R145
over R20's row and R25, which name LDKEY alone (log 16). -/
def Obligations.ClrkeysClearsTheKeys : Prop :=
  encode .clrkeys = 0x00000011#32 ∧ ∀ s : State,
    (∃ (ks : Vector Block 5) (vs : Vector Bool 5) (t : State),
      exec .clrkeys s = .next t ∧ t = { s with key := ks, kvalid := vs, pending := false } ∧
      (∀ i : Fin 5, ks[i] = 0 ∧ vs[i] = false) ∧
      (s.tablesOk = true → exec .enc t = .next (faulted .configuration t))) ∧
    (UnloadedZero s → (∀ i : Fin 5, s.kvalid[i] = false) → exec .clrkeys s = .next { s with pending := false })

/-- R142: ENC is the four rounds and the whitening, under the tables and the five keys; without the tables it is
TableError, then without a key ConfigurationError. What the state machine's hidden registers hold afterwards is left
open (R41). -/
def Obligations.EncRunsTheFourRounds : Prop :=
  encode .enc = 0x00000012#32 ∧ ∀ s : State,
    let sub := layer s.sbox
    let perm := move s.perm
    (s.tablesOk = false → exec .enc s = .next (faulted .table s)) ∧
    (s.tablesOk = true → (∃ i : Fin 5, s.kvalid[i] = false) → exec .enc s = .next (faulted .configuration s)) ∧
    (s.tablesOk = true → (∀ i : Fin 5, s.kvalid[i] = true) →
      ∃ f : Fsm, exec .enc s = .next { s with
        st := sub (perm (sub (perm (sub (perm (sub (s.st ^^^ s.key[0])) ^^^ s.key[1])) ^^^ s.key[2])) ^^^ s.key[3])
          ^^^ s.key[4]
        fsm := f
        pending := false })

/-- R143: DEC undoes the whitening and the four rounds with the inverse tables; its errors are ENC's. -/
def Obligations.DecUndoesTheFourRounds : Prop :=
  encode .dec = 0x00000013#32 ∧ ∀ s : State,
    let isub := layer s.sinv
    let iperm := move s.pinv
    (s.tablesOk = false → exec .dec s = .next (faulted .table s)) ∧
    (s.tablesOk = true → (∃ i : Fin 5, s.kvalid[i] = false) → exec .dec s = .next (faulted .configuration s)) ∧
    (s.tablesOk = true → (∀ i : Fin 5, s.kvalid[i] = true) →
      ∃ f : Fsm, exec .dec s = .next { s with
        st := isub (iperm (isub (iperm (isub (iperm (isub (s.st ^^^ s.key[4]) ^^^ s.key[3])) ^^^ s.key[2]))
          ^^^ s.key[1])) ^^^ s.key[0]
        fsm := f
        pending := false })

/-- R144: with the tables good and all five keys loaded, ENC then DEC and DEC then ENC restore ST, in every state whose
inverse tables are the inverses. -/
def Obligations.EncAndDecAreInverse : Prop :=
  ∀ s : State, s.tablesOk = true → TablesConsistent s → (∀ i : Fin 5, s.kvalid[i] = true) →
    (∃ t u, exec .enc s = .next t ∧ exec .dec t = .next u ∧ u.st = s.st) ∧
    (∃ t u, exec .dec s = .next t ∧ exec .enc t = .next u ∧ u.st = s.st)

/-- R103: the laws of the layers, in every state with good tables whose inverse tables are the inverses. -/
def Obligations.LayersObeyTheirLaws : Prop :=
  ∀ s : State, s.tablesOk = true → TablesConsistent s →
    (∀ v : Block,
      layer s.sinv (layer s.sbox v) = v ∧ layer s.sbox (layer s.sinv v) = v ∧
      move s.pinv (move s.perm v) = v ∧ move s.perm (move s.pinv v) = v ∧
      (List.range 16).countP (fun n => (move s.perm v).getLsbD n) = (List.range 16).countP (fun n => v.getLsbD n)) ∧
    (Function.Bijective (layer s.sbox) ∧ Function.Bijective (layer s.sinv) ∧
      Function.Bijective (move s.perm) ∧ Function.Bijective (move s.pinv)) ∧
    (∀ a b : Block, move s.perm (a ^^^ b) = move s.perm a ^^^ move s.perm b) ∧
    move s.perm 0 = 0 ∧ move s.perm 0xFFFF#16 = 0xFFFF#16

/-! ## The bias estimator -/

/-- R163: LDGK loads an argument in range as the guess, and reports RangeError otherwise. -/
def Obligations.LdgkLoadsTheGuess : Prop :=
  encode .ldgk = 0x00000020#32 ∧ ∀ s : State,
    (s.larg.toNat < 65536 →
      exec .ldgk s = .next { s with gkey := s.larg.setWidth 16, gvalid := true, pending := false }) ∧
    (65536 ≤ s.larg.toNat → exec .ldgk s = .next (faulted .range s))

/-- R164: LDREL loads both masks, from every argument. -/
def Obligations.LdrelLoadsTheRelation : Prop :=
  encode .ldrel = 0x00000021#32 ∧ ∀ (s : State) (pm um : Block), s.larg = pm ++ um →
    exec .ldrel s = .next { s with pmask := pm, umask := um, rvalid := true, pending := false }

/-- R165, R160: PARTIAL writes the inverse substitution of the ciphertext under the guess to ST, nibble by nibble; its
errors in their order; the result does not depend on the round keys, and GKEY itself gives 0xEEEE under the default
table (log 5). -/
def Obligations.PartialUndoesTheLastLayer : Prop :=
  encode .partialInv = 0x00000022#32 ∧ ∀ s : State,
    (s.tablesOk = false → exec .partialInv s = .next (faulted .table s)) ∧
    (s.tablesOk = true → s.gvalid = false → exec .partialInv s = .next (faulted .configuration s)) ∧
    (s.tablesOk = true → s.gvalid = true → 65536 ≤ s.larg.toNat → exec .partialInv s = .next (faulted .range s)) ∧
    (s.tablesOk = true → s.gvalid = true → s.larg.toNat < 65536 →
      ∃ b : Block, exec .partialInv s = .next { s with st := b, pending := false } ∧
        (∀ n, n < 4 → b.extractLsb' (4 * n) 4 =
          lookNibble s.sinv ((s.larg.setWidth 16 ^^^ s.gkey).extractLsb' (4 * n) 4)) ∧
        (s.sinv = invertSbox defaultSbox → s.larg.setWidth 16 = s.gkey → b = 0xEEEE#16) ∧
        ∀ ks : Vector Block 5,
          exec .partialInv { s with key := ks } = .next { s with key := ks, st := b, pending := false })

/-- R166, R160, R161: CHECK writes to RES whether an even number of the bits selected by PMASK in P and by UMASK in
`U(C, GKEY)` are set, so 1 for every pair where both masks are 0 (R161's derivation); TableError, then
ConfigurationError for a missing guess or relation. -/
def Obligations.CheckEvaluatesTheRelation : Prop :=
  encode .check = 0x00000023#32 ∧ ∀ (s : State) (p c : Block), s.larg = p ++ c →
    (s.tablesOk = false → exec .check s = .next (faulted .table s)) ∧
    (s.tablesOk = true → (s.gvalid = false ∨ s.rvalid = false) → exec .check s = .next (faulted .configuration s)) ∧
    (s.tablesOk = true → s.gvalid = true → s.rvalid = true →
      let u := layer s.sinv (c ^^^ s.gkey)
      let ones := (List.range 16).countP (fun n => (p &&& s.pmask).getLsbD n) +
        (List.range 16).countP (fun n => (u &&& s.umask).getLsbD n)
      exec .check s = .next { s with res := decide (ones % 2 = 0), pending := false } ∧
      (s.pmask = 0 → s.umask = 0 → exec .check s = .next { s with res := true, pending := false }))

/-- R160: under the true last key, the partial inverse of a ciphertext is the input of round 4's substitution in its
encryption: PARTIAL of what ENC leaves in ST gives the XOR of KEY4 and the third round's output. -/
def Obligations.PartialRecoversRoundFourInput : Prop :=
  ∀ s : State, s.tablesOk = true → TablesConsistent s → (∀ i : Fin 5, s.kvalid[i] = true) → s.gvalid = true →
    s.gkey = s.key[4] →
    let sub := layer s.sbox
    let perm := move s.perm
    ∃ t u, exec .enc s = .next t ∧ exec .partialInv { t with larg := t.st.setWidth 32 } = .next u ∧
      u.st = perm (sub (perm (sub (perm (sub (s.st ^^^ s.key[0])) ^^^ s.key[1])) ^^^ s.key[2])) ^^^ s.key[3]

/-- R167: ACCUM writes what CHECK writes to RES, counts the pair in TOTAL and, where it holds, in MATCH, exactly, and
clears BVALID; its errors in their order; BNUM and BDEN stay. -/
def Obligations.AccumCountsThePair : Prop :=
  encode .accum = 0x00000024#32 ∧ ∀ s : State,
    (s.tablesOk = false → exec .accum s = .next (faulted .table s)) ∧
    (s.tablesOk = true → (s.gvalid = false ∨ s.rvalid = false) → exec .accum s = .next (faulted .configuration s)) ∧
    (s.tablesOk = true → s.gvalid = true → s.rvalid = true → s.total = 0x7FFFFFFF#32 →
      exec .accum s = .next (faulted .configuration s)) ∧
    (s.tablesOk = true → s.gvalid = true → s.rvalid = true → s.matchCnt.toNat ≤ s.total.toNat →
      s.total.toNat < 0x7FFFFFFF → ∃ c t : State, exec .check s = .next c ∧ exec .accum s = .next t ∧
        t = { s with res := c.res, total := t.total, matchCnt := t.matchCnt, bvalid := false, pending := false } ∧
        t.total.toNat = s.total.toNat + 1 ∧
        t.matchCnt.toNat = s.matchCnt.toNat + (if c.res = true then 1 else 0))

/-- R168: CLRCNT clears the counters and the bias, and nothing else. -/
def Obligations.ClrcntClearsTheCounters : Prop :=
  encode .clrcnt = 0x00000025#32 ∧ ∀ s : State,
    exec .clrcnt s =
      .next { s with matchCnt := 0, total := 0, bnum := 0, bden := 0, bvalid := false, pending := false }

/-- R169: BIAS writes |2*MATCH - TOTAL| and 2*TOTAL, exactly, and sets BVALID; with TOTAL = 0 it is ConfigurationError.
The premise on the counters is the machine's invariant (R29). Twice gives the same. -/
def Obligations.BiasIsTheExactFraction : Prop :=
  encode .bias = 0x00000026#32 ∧ ∀ s : State,
    (s.total = 0 → exec .bias s = .next (faulted .configuration s)) ∧
    (s.total ≠ 0 → CountersBounded s → ∃ t : State, exec .bias s = .next t ∧
      t = { s with bnum := t.bnum, bden := t.bden, bvalid := true, pending := false } ∧
      (t.bnum.toNat : Int) = |2 * (s.matchCnt.toNat : Int) - s.total.toNat| ∧
      t.bden.toNat = 2 * s.total.toNat ∧ t.bnum.toNat ≤ s.total.toNat ∧ exec .bias t = .next t)

/-- R162: the fraction BIAS writes is |MATCH/TOTAL - 1/2|, as a rational number. -/
def Obligations.BiasIsTheDeviationFromOneHalf : Prop :=
  ∀ s : State, s.total ≠ 0 → CountersBounded s → ∃ t : State, exec .bias s = .next t ∧
    (t.bnum.toNat : ℚ) / t.bden.toNat = |(s.matchCnt.toNat : ℚ) / s.total.toNat - 1 / 2| ∧
    (t.bnum.toNat : ℚ) / t.bden.toNat ≤ 1 / 2

/-- R171: two guesses that agree on every nibble in which UMASK is not 0 give the same RES and the same counts, by
CHECK and by ACCUM, for every pair. -/
def Obligations.GuessCountsOnlyInMaskedNibbles : Prop :=
  ∀ (s : State) (g : Block),
    (∀ n, n < 4 → s.umask.extractLsb' (4 * n) 4 ≠ 0 → g.extractLsb' (4 * n) 4 = s.gkey.extractLsb' (4 * n) 4) →
    (∀ t, exec .check s = .next t → exec .check { s with gkey := g } = .next { t with gkey := g }) ∧
    ∀ t, exec .accum s = .next t → exec .accum { s with gkey := g } = .next { t with gkey := g }

/-- Feeding a corpus pair by pair to ACCUM counts exactly the pairs whose relation holds, and BIAS then gives the bias
of the whole corpus (R162, R167, R169, R170), from any cleared counters and for any corpus within the counters'
bound. -/
def Obligations.CorpusIsCountedExactly : Prop :=
  ∀ (s : State) (corpus : List (Block × Block)), s.tablesOk = true → s.gvalid = true → s.rvalid = true →
    s.total = 0 → s.matchCnt = 0 → corpus ≠ [] → corpus.length ≤ 0x7FFFFFFF →
    let holds := corpus.countP fun pc => relHolds s.pmask s.umask pc.1 (layer s.sinv (pc.2 ^^^ s.gkey))
    ∃ t u : State, accumulateCorpus corpus s = .next t ∧ exec .bias t = .next u ∧
      t.total.toNat = corpus.length ∧ t.matchCnt.toNat = holds ∧
      (u.bnum.toNat : ℚ) / u.bden.toNat = |(holds : ℚ) / corpus.length - 1 / 2|

/-- The checker never reads or writes the loaded cipher: what PARTIAL, CHECK and ACCUM do is the same whatever the five
round keys and their validity bits (R27, R160, R165). -/
def Obligations.AttackIgnoresTheRoundKeys : Prop :=
  ∀ (i : Instr) (s : State) (ks : Vector Block 5) (vs : Vector Bool 5),
    i = .partialInv ∨ i = .check ∨ i = .accum → ∀ t, exec i s = .next t →
      exec i { s with key := ks, kvalid := vs } = .next { t with key := ks, kvalid := vs }

/-! ## Control -/

/-- R191: CLRERR empties the error record and changes nothing else, nothing at all where no error is recorded;
TABLES_OK stays; its word with another IDX or RSV is IllegalCommand and leaves ERR = 1; an Overrun while it is in
flight is cleared when it completes. -/
def Obligations.ClrerrEmptiesTheRecord : Prop :=
  encode .clrerr = 0x00000030#32 ∧
  (∀ s : State,
    exec .clrerr s = .next { s with err := false, errOvf := false, ecode := 0, eop := 0, pending := false } ∧
    (ErrorRecordLegal s → s.err = false → exec .clrerr s = .next { s with pending := false }) ∧
    (s.lcmd.toNat % 256 = 0x30 → s.lcmd ≠ 0x00000030#32 → ∃ t, completeCommand s = .next t ∧ t.err = true ∧
      t = faulted .illegalCommand s)) ∧
  ∀ (s : State) (w : Word), s.pending = true → s.lcmd = 0x00000030#32 →
    ∃ t, completeCommand (presentCommand w s) = .next t ∧ errorRecord t = (false, false, 0, 0) ∧ t.pending = false

/-- R20's last column: which commands may write each register. A command not named for a register leaves it as it was. For
the keys CLRKEYS stands beside LDKEY, the model's choice of R141 and R145 over R20's row and R25 (log 16). -/
def Obligations.OnlyNamedCommandsWrite : Prop :=
  ∀ (i : Instr) (s t : State), exec i s = .next t →
    (t.st ≠ s.st → i ∈ [.ldst, .xori, .sub, .isub, .perm, .iperm, .enc, .dec, .partialInv] ∨ ∃ k, i = .xork k) ∧
    (t.key ≠ s.key ∨ t.kvalid ≠ s.kvalid → i = .clrkeys ∨ ∃ k, i = .ldkey k) ∧
    (t.gkey ≠ s.gkey ∨ t.gvalid ≠ s.gvalid → i = .ldgk) ∧
    (t.pmask ≠ s.pmask ∨ t.umask ≠ s.umask ∨ t.rvalid ≠ s.rvalid → i = .ldrel) ∧
    (t.matchCnt ≠ s.matchCnt ∨ t.total ≠ s.total → i = .accum ∨ i = .clrcnt) ∧
    (t.bnum ≠ s.bnum ∨ t.bden ≠ s.bden → i = .bias ∨ i = .clrcnt) ∧
    (t.bvalid ≠ s.bvalid → i = .bias ∨ i = .accum ∨ i = .clrcnt) ∧
    (t.res ≠ s.res → i = .getbit ∨ i = .check ∨ i = .accum) ∧
    (t.fsm ≠ s.fsm → i = .enc ∨ i = .dec) ∧
    (errorRecord t ≠ errorRecord s → i = .clrerr ∨ ∃ k, reportedError i s = some k) ∧
    t.pending = false ∧ t.arg = s.arg ∧ t.lcmd = s.lcmd ∧ t.larg = s.larg ∧ t.tablesOk = s.tablesOk ∧
    t.sbox = s.sbox ∧ t.perm = s.perm ∧ t.sinv = s.sinv ∧ t.pinv = s.pinv ∧ t.inReset = s.inReset ∧
    t.schedule = s.schedule ∧ t.rdata = s.rdata

/-! ## The register port -/

/-- R61: what a read returns at each of the 16 indices, each register having one; while reset is asserted every read
returns 0 (R230). -/
def Obligations.ReadReturnsTheRegister : Prop :=
  (∀ n : BitVec 4, ∃ r : PortReg, r.index = n ∧ ∀ q : PortReg, q.index = n → q = r) ∧
  ∀ (s : State) (rest : List Event) (r : PortReg), s.schedule = .read r :: rest →
    ∃ v : Word, step s = .next { s with schedule := rest, rdata := v } ∧
      (s.inReset = true → v = 0) ∧
      (s.inReset = false → r.index = 0 → v = 0) ∧
      (s.inReset = false → r.index = 1 → v = s.arg) ∧
      (s.inReset = false → r.index = 2 → v = statusWord s) ∧
      (s.inReset = false → r.index = 3 → v.toNat = s.st.toNat) ∧
      (∀ i : Fin 5, s.inReset = false → r.index.toNat = i.val + 4 → v.toNat = s.key[i].toNat) ∧
      (s.inReset = false → r.index = 9 → v.toNat = s.gkey.toNat) ∧
      (s.inReset = false → r.index = 10 → v.toNat = s.pmask.toNat * 65536 + s.umask.toNat) ∧
      (s.inReset = false → r.index = 11 → v = s.matchCnt) ∧
      (s.inReset = false → r.index = 12 → v = s.total) ∧
      (s.inReset = false → r.index = 13 → v = s.bnum) ∧
      (s.inReset = false → r.index = 14 → v = s.bden) ∧
      (s.inReset = false → r.index = 15 → v = 0x53504E01#32)

/-- R32: every field of STATUS is where the table puts it, and the reserved bits read 0. -/
def Obligations.StatusFieldsAreInPlace : Prop :=
  ∀ s : State,
    let w := statusWord s
    w.getLsbD 0 = s.pending ∧ w.getLsbD 1 = s.res ∧ w.getLsbD 2 = s.err ∧ w.getLsbD 3 = s.errOvf ∧
    w.extractLsb' 4 3 = s.ecode ∧ w.getLsbD 7 = false ∧ (∀ i : Fin 5, w.getLsbD (8 + i.val) = s.kvalid[i]) ∧
    w.getLsbD 13 = s.gvalid ∧ w.getLsbD 14 = s.rvalid ∧ w.getLsbD 15 = s.tablesOk ∧ w.getLsbD 16 = s.bvalid ∧
    w.extractLsb' 17 7 = 0 ∧ w.extractLsb' 24 8 = s.eop

/-- R63: a write to an index from 2 on changes nothing, a read changes nothing in the block, and reading again returns
the same word. That the word read is kept in `rdata` is the model's way of handing it to the host (log 8). -/
def Obligations.ReadsAndIgnoredWritesChangeNothing : Prop :=
  (∀ (s : State) (rest : List Event) (r : PortReg) (v : Word), s.schedule = .write r v :: rest →
    2 ≤ r.index.toNat → step s = .next { s with schedule := rest }) ∧
  ∀ (s : State) (rest : List Event) (r : PortReg), s.schedule = .read r :: .read r :: rest →
    ∃ v t, step s = .next t ∧ t = { s with schedule := .read r :: rest, rdata := v } ∧
      step t = .next { t with schedule := rest }

/-- R64, R23: a CMD write latches the word and ARG while no command is in flight; while one is, the word is dropped and
recorded as Overrun with its opcode; an ARG write writes ARG at any time. -/
def Obligations.CommandIsAcceptedOrDropped : Prop :=
  ∀ (s : State) (rest : List Event) (v : Word), s.inReset = false →
    (s.schedule = .write .cmd v :: rest →
      (s.pending = false →
        step s = .next { s with schedule := rest, pending := true, lcmd := v, larg := s.arg }) ∧
      (s.pending = true →
        step s = .next (recordError .overrun (v.extractLsb' 0 8) { s with schedule := rest }))) ∧
    (s.schedule = .write .arg v :: rest → step s = .next { s with schedule := rest, arg := v })

/-- R66, R242: from the acceptance of a command until it completes, whatever registers the host reads and whatever it
writes to ARG, every register but ARG reads as before the acceptance, STATUS differing in BUSY alone. -/
def Obligations.ReadsWhileBusyReturnOldValues : Prop :=
  ∀ (s : State) (w : Word) (events rest : List Event), s.pending = false → s.inReset = false →
    (∀ e ∈ events, (∃ r, e = .read r) ∨ ∃ v, e = .write .arg v) →
    s.schedule = .write .cmd w :: (events ++ rest) →
    ∃ t, runSteps (events.length + 1) s = .next t ∧ t.pending = true ∧ t.schedule = rest ∧
      (∀ r : PortReg, r ≠ .status → r ≠ .arg → portValue r t = portValue r s) ∧
      ∀ n, n < 32 → (portValue .status t).getLsbD n = if n = 0 then true else (portValue .status s).getLsbD n

/-- R70, R241: a write of ARG while a command is in flight does not change what the command does, nor does a dropped CMD
write change which command it is or its argument. -/
def Obligations.CommandInFlightIsUndisturbed : Prop :=
  (∀ (s t : State) (v : Word), completeCommand s = .next t →
    completeCommand { s with arg := v } = .next { t with arg := v }) ∧
  ∀ (s : State) (w : Word), s.pending = true →
    (presentCommand w s).lcmd = s.lcmd ∧ (presentCommand w s).larg = s.larg ∧ (presentCommand w s).pending = true

/-- R85, R86: the statement `OP v`, from an idle block, with any number of polls while the block is busy: ARG holds v,
the command runs once with v as its argument, and the host's last read is the STATUS it leaves, with BUSY = 0. -/
def Obligations.PseudoInstructionRunsItsCommand : Prop :=
  ∀ (s : State) (i : Instr) (v : Word) (polls : Nat) (rest : List Event), s.pending = false → s.inReset = false →
    s.schedule = scheduleOf (pseudoArg polls i v) ++ rest →
    ∃ busy t : State,
      busy = { s with arg := v, pending := true, lcmd := encode i, larg := v, schedule := .read .status :: rest,
                      rdata := busy.rdata } ∧
      exec i busy = .next t ∧ runSteps (polls + 4) s = .next { t with schedule := rest, rdata := statusWord t } ∧
      (statusWord t).getLsbD 0 = false

/-- R60, R61, R67: a bus access of 4 bytes at offset `4 * i` is the port access of the register with index i; any
other is refused. Which accesses past offset 0x3C do is the system's: the model refuses them too (log 10). -/
def Obligations.BusAccessIsAWholeRegister : Prop :=
  ∀ (s : State) (rest : List Event) (offset size : Nat) (v : Word),
    (s.schedule = .busRead offset size :: rest →
      (∀ r : PortReg, size = 4 → offset = 4 * r.index.toNat →
        step s = step { s with schedule := .read r :: rest }) ∧
      (¬(size = 4 ∧ offset % 4 = 0 ∧ offset < 64) → step s = .refused .notOneWholeRegister)) ∧
    (s.schedule = .busWrite offset size v :: rest →
      (∀ r : PortReg, size = 4 → offset = 4 * r.index.toNat →
        step s = step { s with schedule := .write r v :: rest }) ∧
      (¬(size = 4 ∧ offset % 4 = 0 ∧ offset < 64) → step s = .refused .notOneWholeRegister))

/-! ## Reset -/

/-- R231: what each register holds after the reset sequence, for every choice of the tables; STATUS is 0x0000_8000
with the default ones (R231's derivation, log 5). The registers the spec gives no value (LCMD, LARG, the state
machine's) are not spoken of. -/
def Obligations.ResetValues : Prop :=
  (∀ c : Config,
    let s := State.resetWith c
    s.st = 0 ∧ s.arg = 0 ∧ (∀ i : Fin 5, s.key[i] = 0 ∧ s.kvalid[i] = false) ∧ s.gkey = 0 ∧ s.gvalid = false ∧
    s.pmask = 0 ∧ s.umask = 0 ∧ s.rvalid = false ∧ s.matchCnt = 0 ∧ s.total = 0 ∧ s.bnum = 0 ∧ s.bden = 0 ∧
    s.bvalid = false ∧ s.res = false ∧ s.pending = false ∧ s.sbox = c.sbox ∧ s.perm = c.perm ∧
    s.tablesOk = selfCheck c.sbox c.perm ∧ portValue .ident s = 0x53504E01#32 ∧
    (s.tablesOk = true → errorRecord s = (false, false, 0, 0) ∧ SboxInverse s.sbox s.sinv ∧ PermInverse s.perm s.pinv) ∧
    (s.tablesOk = false → errorRecord s = (true, false, 4, 0xFF#8))) ∧
  State.reset = State.resetWith { sbox := defaultSbox, perm := defaultPerm } ∧ statusWord State.reset = 0x00008000#32

/-- R35: the self-check passes exactly when both tables are bijections (distinct entries for distinct inputs, every
entry of PERM in 1..16); reset puts its result in TABLES_OK, 1 for the default tables (R35's derivation, log 5); and
while TABLES_OK = 0 every command that reads a table is TableError. -/
def Obligations.SelfCheckMeansBijective : Prop :=
  (∀ (sb : SboxTable) (pm : PermTable), selfCheck sb pm = true ↔
    (∀ x y : Nibble, lookNibble sb x = lookNibble sb y → x = y) ∧
    (∀ p, 1 ≤ p → p ≤ 16 → 1 ≤ lookPosition pm p ∧ lookPosition pm p ≤ 16) ∧
    ∀ p q, 1 ≤ p → p ≤ 16 → 1 ≤ q → q ≤ 16 → lookPosition pm p = lookPosition pm q → p = q) ∧
  (∀ c : Config, (State.resetWith c).tablesOk = selfCheck c.sbox c.perm) ∧
  State.reset.tablesOk = true ∧
  ∀ (i : Instr) (s : State), i ∈ [.sub, .isub, .perm, .iperm, .enc, .dec, .partialInv, .check, .accum] →
    s.tablesOk = false → exec i s = .next (faulted .table s)

/-- R38, R39, R232: for tables that pass the self-check, the reset sequence computes their inverses; for the default
tables they are the table of R38 and PERM itself (R38's and R39's derivations, log 5). -/
def Obligations.ResetComputesTheInverseTables : Prop :=
  (∀ c : Config, selfCheck c.sbox c.perm = true →
    SboxInverse c.sbox (State.resetWith c).sinv ∧ PermInverse c.perm (State.resetWith c).pinv) ∧
  State.reset.sinv =
    #v[0xE#4, 0x3#4, 0x4#4, 0x8#4, 0x1#4, 0xC#4, 0xA#4, 0xF#4, 0x7#4, 0xD#4, 0x9#4, 0x6#4, 0xB#4, 0x2#4, 0x0#4, 0x5#4] ∧
  State.reset.pinv = defaultPerm

/-- R230: asserting reset abandons a command in flight, writes nothing of it and records no error; while it is
asserted a write changes nothing, a read returns 0 and no command completes; its release leaves the state after the
reset sequence, for the tables the instance is built with. That the registers keep their values while it is asserted,
and that `schedule` and `rdata` stay, are the model's choices (log 13). -/
def Obligations.ResetAbandonsTheCommand : Prop :=
  ∀ (s : State) (rest : List Event),
    (s.schedule = .resetAssert :: rest →
      step s = .next { s with schedule := rest, pending := false, inReset := true }) ∧
    (s.inReset = true →
      (∀ r v, s.schedule = .write r v :: rest → step s = .next { s with schedule := rest }) ∧
      (∀ r, s.schedule = .read r :: rest → step s = .next { s with schedule := rest, rdata := 0 }) ∧
      (s.schedule = .core :: rest → step s = .next { s with schedule := rest }) ∧
      (s.schedule = .resetRelease :: rest → step s = .next
        { State.resetWith { sbox := s.sbox, perm := s.perm } with schedule := rest, rdata := s.rdata }))

/-- R71: the tables are read-only. No step changes SBOX or PERM, and only a release of reset changes TABLES_OK, SINV or
PINV. -/
def Obligations.TablesAreReadOnly : Prop :=
  ∀ s t : State, step s = .next t →
    t.sbox = s.sbox ∧ t.perm = s.perm ∧
    ((t.tablesOk = s.tablesOk ∧ t.sinv = s.sinv ∧ t.pinv = s.pinv) ∨
      (s.inReset = true ∧ s.schedule.head? = some .resetRelease))

/-- The registers for which the spec gives no value are never read while they hold none, so that no run depends on the
values the model gives them (log 2, 3, 4): LCMD and LARG while no command is in flight (R40), the state machine's
registers (R41), SINV and PINV while TABLES_OK = 0 (R38, R39). -/
def Obligations.RegistersWithoutValueAreNeverRead : Prop :=
  (∀ (s t : State) (l a : Word), s.pending = false → step s = .next t →
    ∃ l' a', step { s with lcmd := l, larg := a } = .next { t with lcmd := l', larg := a' } ∧
      (t.pending = true → l' = t.lcmd ∧ a' = t.larg)) ∧
  (∀ (s t : State) (f : Fsm), step s = .next t → ∃ f', step { s with fsm := f } = .next { t with fsm := f' }) ∧
  ∀ (i : Instr) (s t : State) (sinv : SboxTable) (pinv : PermTable), s.tablesOk = false → exec i s = .next t →
    exec i { s with sinv := sinv, pinv := pinv } = .next { t with sinv := sinv, pinv := pinv }

/-! ## The invariant -/

/-- The invariant holds after reset, with whatever tables the instance is built with. -/
def Obligations.ResetIsLegal : Prop := ∀ c : Config, (State.resetWith c).Inv

/-- Every step keeps the invariant: the error record takes only legal values (R33), MATCH <= TOTAL <= TOTAL_MAX (R29),
BVALID = 1 means that BNUM and BDEN describe the counters (R30), TABLES_OK is the self-check's result and the inverse
tables are the inverses (R35, R38, R39), an unloaded register is 0 (for the keys after CLRKEYS the model's choice, log 16),
and reset abandons the command in flight (R230). -/
def Obligations.StepKeepsTheStateLegal : Prop :=
  ∀ s t : State, s.Inv → step s = .next t → t.Inv

/-! ## Several instances -/

/-- R210: a step of one instance is its own step and changes no other instance. -/
def Obligations.InstancesShareNothing : Prop :=
  ∀ (sys sys' : System) (j : Nat), systemStep j sys = .next sys' →
    sys'.length = sys.length ∧
    (∀ k : Nat, k ≠ j → sys'[k]? = sys[k]?) ∧
    ∀ s, sys[j]? = some s → ∃ t, step s = .next t ∧ sys'[j]? = some t

/-- R210: parts of one corpus, each counted by an instance of its own from its own state, under the same guess, relation and
inverse table, reduce by their counters to the bias of the whole corpus. -/
def Obligations.CountersReduceToTheCorpusBias : Prop :=
  ∀ (g pm um : Block) (sinv : SboxTable) (runs : List (State × List (Block × Block))) (sys : System),
    (∀ r ∈ runs, r.1.tablesOk = true ∧ r.1.gvalid = true ∧ r.1.rvalid = true ∧ r.1.total = 0 ∧ r.1.matchCnt = 0 ∧
      r.1.gkey = g ∧ r.1.pmask = pm ∧ r.1.umask = um ∧ r.1.sinv = sinv ∧ r.2.length ≤ 0x7FFFFFFF) →
    List.Forall₂ (fun r t => accumulateCorpus r.2 r.1 = .next t) runs sys →
    let corpus := (runs.map (·.2)).flatten
    let holds := corpus.countP fun pc => relHolds pm um pc.1 (layer sinv (pc.2 ^^^ g))
    (((corpusBias sys).1 : Int) = |2 * (holds : Int) - corpus.length|) ∧ (corpusBias sys).2 = 2 * corpus.length

/-- R41: the sequence of values W takes during ENC is that of R142's rounds, RC counting them, and during DEC that of
R143's. That RC counts upwards in both directions is the model's choice (log 3). -/
def Obligations.StateMachineTakesTheRoundValues : Prop :=
  ∀ s : State,
    let e := fsmStart s .encrypt
    let e1 := fsmAdvance s e
    let e2 := fsmAdvance s e1
    let e3 := fsmAdvance s e2
    let e4 := fsmAdvance s e3
    let d := fsmStart s .decrypt
    let d1 := fsmAdvance s d
    let d2 := fsmAdvance s d1
    let d3 := fsmAdvance s d2
    let d4 := fsmAdvance s d3
    (e.w = s.st ∧ e1.w = move s.perm (layer s.sbox (e.w ^^^ s.key[0])) ∧
      e2.w = move s.perm (layer s.sbox (e1.w ^^^ s.key[1])) ∧ e3.w = move s.perm (layer s.sbox (e2.w ^^^ s.key[2])) ∧
      e4.w = layer s.sbox (e3.w ^^^ s.key[3])) ∧
    (d.w = s.st ∧ d1.w = layer s.sinv (d.w ^^^ s.key[4]) ^^^ s.key[3] ∧
      d2.w = layer s.sinv (move s.pinv d1.w) ^^^ s.key[2] ∧ d3.w = layer s.sinv (move s.pinv d2.w) ^^^ s.key[1] ∧
      d4.w = layer s.sinv (move s.pinv d3.w) ^^^ s.key[0]) ∧
    (e1.rc = 1 ∧ e2.rc = 2 ∧ e3.rc = 3 ∧ e4.rc = 4 ∧ d1.rc = 1 ∧ d2.rc = 2 ∧ d3.rc = 3 ∧ d4.rc = 4) ∧
    (s.tablesOk = true → (∀ i : Fin 5, s.kvalid[i] = true) →
      (∃ t, exec .enc s = .next t ∧ t.fsm = e4 ∧ t.st = e4.w ^^^ s.key[4]) ∧
      ∃ t, exec .dec s = .next t ∧ t.fsm = d4 ∧ t.st = d4.w)
end

