-- ==== Sys2Proof/Laws/State.lean ====
section
/-! SUPPORT. One lemma per field and named update of State, so that no later proof unfolds an update. An update written
`{ s with … }` needs none: its fields reduce by themselves. -/

namespace Sys2Proof.Machine

@[simp] theorem retire_st (s : State) : (retire s).st = s.st := rfl
@[simp] theorem retire_arg (s : State) : (retire s).arg = s.arg := rfl
@[simp] theorem retire_key (s : State) : (retire s).key = s.key := rfl
@[simp] theorem retire_kvalid (s : State) : (retire s).kvalid = s.kvalid := rfl
@[simp] theorem retire_gkey (s : State) : (retire s).gkey = s.gkey := rfl
@[simp] theorem retire_gvalid (s : State) : (retire s).gvalid = s.gvalid := rfl
@[simp] theorem retire_pmask (s : State) : (retire s).pmask = s.pmask := rfl
@[simp] theorem retire_umask (s : State) : (retire s).umask = s.umask := rfl
@[simp] theorem retire_rvalid (s : State) : (retire s).rvalid = s.rvalid := rfl
@[simp] theorem retire_matchCnt (s : State) : (retire s).matchCnt = s.matchCnt := rfl
@[simp] theorem retire_total (s : State) : (retire s).total = s.total := rfl
@[simp] theorem retire_bnum (s : State) : (retire s).bnum = s.bnum := rfl
@[simp] theorem retire_bden (s : State) : (retire s).bden = s.bden := rfl
@[simp] theorem retire_bvalid (s : State) : (retire s).bvalid = s.bvalid := rfl
@[simp] theorem retire_res (s : State) : (retire s).res = s.res := rfl
@[simp] theorem retire_pending (s : State) : (retire s).pending = false := rfl
@[simp] theorem retire_lcmd (s : State) : (retire s).lcmd = s.lcmd := rfl
@[simp] theorem retire_larg (s : State) : (retire s).larg = s.larg := rfl
@[simp] theorem retire_fsm (s : State) : (retire s).fsm = s.fsm := rfl
@[simp] theorem retire_err (s : State) : (retire s).err = s.err := rfl
@[simp] theorem retire_errOvf (s : State) : (retire s).errOvf = s.errOvf := rfl
@[simp] theorem retire_ecode (s : State) : (retire s).ecode = s.ecode := rfl
@[simp] theorem retire_eop (s : State) : (retire s).eop = s.eop := rfl
@[simp] theorem retire_tablesOk (s : State) : (retire s).tablesOk = s.tablesOk := rfl
@[simp] theorem retire_sbox (s : State) : (retire s).sbox = s.sbox := rfl
@[simp] theorem retire_perm (s : State) : (retire s).perm = s.perm := rfl
@[simp] theorem retire_sinv (s : State) : (retire s).sinv = s.sinv := rfl
@[simp] theorem retire_pinv (s : State) : (retire s).pinv = s.pinv := rfl
@[simp] theorem retire_inReset (s : State) : (retire s).inReset = s.inReset := rfl
@[simp] theorem retire_schedule (s : State) : (retire s).schedule = s.schedule := rfl
@[simp] theorem retire_rdata (s : State) : (retire s).rdata = s.rdata := rfl

@[simp] theorem clearErrorRecord_st (s : State) : (clearErrorRecord s).st = s.st := rfl
@[simp] theorem clearErrorRecord_arg (s : State) : (clearErrorRecord s).arg = s.arg := rfl
@[simp] theorem clearErrorRecord_key (s : State) : (clearErrorRecord s).key = s.key := rfl
@[simp] theorem clearErrorRecord_kvalid (s : State) : (clearErrorRecord s).kvalid = s.kvalid := rfl
@[simp] theorem clearErrorRecord_gkey (s : State) : (clearErrorRecord s).gkey = s.gkey := rfl
@[simp] theorem clearErrorRecord_gvalid (s : State) : (clearErrorRecord s).gvalid = s.gvalid := rfl
@[simp] theorem clearErrorRecord_pmask (s : State) : (clearErrorRecord s).pmask = s.pmask := rfl
@[simp] theorem clearErrorRecord_umask (s : State) : (clearErrorRecord s).umask = s.umask := rfl
@[simp] theorem clearErrorRecord_rvalid (s : State) : (clearErrorRecord s).rvalid = s.rvalid := rfl
@[simp] theorem clearErrorRecord_matchCnt (s : State) : (clearErrorRecord s).matchCnt = s.matchCnt := rfl
@[simp] theorem clearErrorRecord_total (s : State) : (clearErrorRecord s).total = s.total := rfl
@[simp] theorem clearErrorRecord_bnum (s : State) : (clearErrorRecord s).bnum = s.bnum := rfl
@[simp] theorem clearErrorRecord_bden (s : State) : (clearErrorRecord s).bden = s.bden := rfl
@[simp] theorem clearErrorRecord_bvalid (s : State) : (clearErrorRecord s).bvalid = s.bvalid := rfl
@[simp] theorem clearErrorRecord_res (s : State) : (clearErrorRecord s).res = s.res := rfl
@[simp] theorem clearErrorRecord_pending (s : State) : (clearErrorRecord s).pending = s.pending := rfl
@[simp] theorem clearErrorRecord_lcmd (s : State) : (clearErrorRecord s).lcmd = s.lcmd := rfl
@[simp] theorem clearErrorRecord_larg (s : State) : (clearErrorRecord s).larg = s.larg := rfl
@[simp] theorem clearErrorRecord_fsm (s : State) : (clearErrorRecord s).fsm = s.fsm := rfl
@[simp] theorem clearErrorRecord_err (s : State) : (clearErrorRecord s).err = false := rfl
@[simp] theorem clearErrorRecord_errOvf (s : State) : (clearErrorRecord s).errOvf = false := rfl
@[simp] theorem clearErrorRecord_ecode (s : State) : (clearErrorRecord s).ecode = 0 := rfl
@[simp] theorem clearErrorRecord_eop (s : State) : (clearErrorRecord s).eop = 0 := rfl
@[simp] theorem clearErrorRecord_tablesOk (s : State) : (clearErrorRecord s).tablesOk = s.tablesOk := rfl
@[simp] theorem clearErrorRecord_sbox (s : State) : (clearErrorRecord s).sbox = s.sbox := rfl
@[simp] theorem clearErrorRecord_perm (s : State) : (clearErrorRecord s).perm = s.perm := rfl
@[simp] theorem clearErrorRecord_sinv (s : State) : (clearErrorRecord s).sinv = s.sinv := rfl
@[simp] theorem clearErrorRecord_pinv (s : State) : (clearErrorRecord s).pinv = s.pinv := rfl
@[simp] theorem clearErrorRecord_inReset (s : State) : (clearErrorRecord s).inReset = s.inReset := rfl
@[simp] theorem clearErrorRecord_schedule (s : State) : (clearErrorRecord s).schedule = s.schedule := rfl
@[simp] theorem clearErrorRecord_rdata (s : State) : (clearErrorRecord s).rdata = s.rdata := rfl

@[simp] theorem latch_st (w : Word) (s : State) : (latch w s).st = s.st := rfl
@[simp] theorem latch_arg (w : Word) (s : State) : (latch w s).arg = s.arg := rfl
@[simp] theorem latch_key (w : Word) (s : State) : (latch w s).key = s.key := rfl
@[simp] theorem latch_kvalid (w : Word) (s : State) : (latch w s).kvalid = s.kvalid := rfl
@[simp] theorem latch_gkey (w : Word) (s : State) : (latch w s).gkey = s.gkey := rfl
@[simp] theorem latch_gvalid (w : Word) (s : State) : (latch w s).gvalid = s.gvalid := rfl
@[simp] theorem latch_pmask (w : Word) (s : State) : (latch w s).pmask = s.pmask := rfl
@[simp] theorem latch_umask (w : Word) (s : State) : (latch w s).umask = s.umask := rfl
@[simp] theorem latch_rvalid (w : Word) (s : State) : (latch w s).rvalid = s.rvalid := rfl
@[simp] theorem latch_matchCnt (w : Word) (s : State) : (latch w s).matchCnt = s.matchCnt := rfl
@[simp] theorem latch_total (w : Word) (s : State) : (latch w s).total = s.total := rfl
@[simp] theorem latch_bnum (w : Word) (s : State) : (latch w s).bnum = s.bnum := rfl
@[simp] theorem latch_bden (w : Word) (s : State) : (latch w s).bden = s.bden := rfl
@[simp] theorem latch_bvalid (w : Word) (s : State) : (latch w s).bvalid = s.bvalid := rfl
@[simp] theorem latch_res (w : Word) (s : State) : (latch w s).res = s.res := rfl
@[simp] theorem latch_pending (w : Word) (s : State) : (latch w s).pending = true := rfl
@[simp] theorem latch_lcmd (w : Word) (s : State) : (latch w s).lcmd = w := rfl
@[simp] theorem latch_larg (w : Word) (s : State) : (latch w s).larg = s.arg := rfl
@[simp] theorem latch_fsm (w : Word) (s : State) : (latch w s).fsm = s.fsm := rfl
@[simp] theorem latch_err (w : Word) (s : State) : (latch w s).err = s.err := rfl
@[simp] theorem latch_errOvf (w : Word) (s : State) : (latch w s).errOvf = s.errOvf := rfl
@[simp] theorem latch_ecode (w : Word) (s : State) : (latch w s).ecode = s.ecode := rfl
@[simp] theorem latch_eop (w : Word) (s : State) : (latch w s).eop = s.eop := rfl
@[simp] theorem latch_tablesOk (w : Word) (s : State) : (latch w s).tablesOk = s.tablesOk := rfl
@[simp] theorem latch_sbox (w : Word) (s : State) : (latch w s).sbox = s.sbox := rfl
@[simp] theorem latch_perm (w : Word) (s : State) : (latch w s).perm = s.perm := rfl
@[simp] theorem latch_sinv (w : Word) (s : State) : (latch w s).sinv = s.sinv := rfl
@[simp] theorem latch_pinv (w : Word) (s : State) : (latch w s).pinv = s.pinv := rfl
@[simp] theorem latch_inReset (w : Word) (s : State) : (latch w s).inReset = s.inReset := rfl
@[simp] theorem latch_schedule (w : Word) (s : State) : (latch w s).schedule = s.schedule := rfl
@[simp] theorem latch_rdata (w : Word) (s : State) : (latch w s).rdata = s.rdata := rfl

@[simp] theorem setRes_st (b : Bool) (s : State) : (setRes b s).st = s.st := rfl
@[simp] theorem setRes_arg (b : Bool) (s : State) : (setRes b s).arg = s.arg := rfl
@[simp] theorem setRes_key (b : Bool) (s : State) : (setRes b s).key = s.key := rfl
@[simp] theorem setRes_kvalid (b : Bool) (s : State) : (setRes b s).kvalid = s.kvalid := rfl
@[simp] theorem setRes_gkey (b : Bool) (s : State) : (setRes b s).gkey = s.gkey := rfl
@[simp] theorem setRes_gvalid (b : Bool) (s : State) : (setRes b s).gvalid = s.gvalid := rfl
@[simp] theorem setRes_pmask (b : Bool) (s : State) : (setRes b s).pmask = s.pmask := rfl
@[simp] theorem setRes_umask (b : Bool) (s : State) : (setRes b s).umask = s.umask := rfl
@[simp] theorem setRes_rvalid (b : Bool) (s : State) : (setRes b s).rvalid = s.rvalid := rfl
@[simp] theorem setRes_matchCnt (b : Bool) (s : State) : (setRes b s).matchCnt = s.matchCnt := rfl
@[simp] theorem setRes_total (b : Bool) (s : State) : (setRes b s).total = s.total := rfl
@[simp] theorem setRes_bnum (b : Bool) (s : State) : (setRes b s).bnum = s.bnum := rfl
@[simp] theorem setRes_bden (b : Bool) (s : State) : (setRes b s).bden = s.bden := rfl
@[simp] theorem setRes_bvalid (b : Bool) (s : State) : (setRes b s).bvalid = s.bvalid := rfl
@[simp] theorem setRes_res (b : Bool) (s : State) : (setRes b s).res = b := rfl
@[simp] theorem setRes_pending (b : Bool) (s : State) : (setRes b s).pending = s.pending := rfl
@[simp] theorem setRes_lcmd (b : Bool) (s : State) : (setRes b s).lcmd = s.lcmd := rfl
@[simp] theorem setRes_larg (b : Bool) (s : State) : (setRes b s).larg = s.larg := rfl
@[simp] theorem setRes_fsm (b : Bool) (s : State) : (setRes b s).fsm = s.fsm := rfl
@[simp] theorem setRes_err (b : Bool) (s : State) : (setRes b s).err = s.err := rfl
@[simp] theorem setRes_errOvf (b : Bool) (s : State) : (setRes b s).errOvf = s.errOvf := rfl
@[simp] theorem setRes_ecode (b : Bool) (s : State) : (setRes b s).ecode = s.ecode := rfl
@[simp] theorem setRes_eop (b : Bool) (s : State) : (setRes b s).eop = s.eop := rfl
@[simp] theorem setRes_tablesOk (b : Bool) (s : State) : (setRes b s).tablesOk = s.tablesOk := rfl
@[simp] theorem setRes_sbox (b : Bool) (s : State) : (setRes b s).sbox = s.sbox := rfl
@[simp] theorem setRes_perm (b : Bool) (s : State) : (setRes b s).perm = s.perm := rfl
@[simp] theorem setRes_sinv (b : Bool) (s : State) : (setRes b s).sinv = s.sinv := rfl
@[simp] theorem setRes_pinv (b : Bool) (s : State) : (setRes b s).pinv = s.pinv := rfl
@[simp] theorem setRes_inReset (b : Bool) (s : State) : (setRes b s).inReset = s.inReset := rfl
@[simp] theorem setRes_schedule (b : Bool) (s : State) : (setRes b s).schedule = s.schedule := rfl
@[simp] theorem setRes_rdata (b : Bool) (s : State) : (setRes b s).rdata = s.rdata := rfl

@[simp] theorem assertReset_st (s : State) : (assertReset s).st = s.st := rfl
@[simp] theorem assertReset_arg (s : State) : (assertReset s).arg = s.arg := rfl
@[simp] theorem assertReset_key (s : State) : (assertReset s).key = s.key := rfl
@[simp] theorem assertReset_kvalid (s : State) : (assertReset s).kvalid = s.kvalid := rfl
@[simp] theorem assertReset_gkey (s : State) : (assertReset s).gkey = s.gkey := rfl
@[simp] theorem assertReset_gvalid (s : State) : (assertReset s).gvalid = s.gvalid := rfl
@[simp] theorem assertReset_pmask (s : State) : (assertReset s).pmask = s.pmask := rfl
@[simp] theorem assertReset_umask (s : State) : (assertReset s).umask = s.umask := rfl
@[simp] theorem assertReset_rvalid (s : State) : (assertReset s).rvalid = s.rvalid := rfl
@[simp] theorem assertReset_matchCnt (s : State) : (assertReset s).matchCnt = s.matchCnt := rfl
@[simp] theorem assertReset_total (s : State) : (assertReset s).total = s.total := rfl
@[simp] theorem assertReset_bnum (s : State) : (assertReset s).bnum = s.bnum := rfl
@[simp] theorem assertReset_bden (s : State) : (assertReset s).bden = s.bden := rfl
@[simp] theorem assertReset_bvalid (s : State) : (assertReset s).bvalid = s.bvalid := rfl
@[simp] theorem assertReset_res (s : State) : (assertReset s).res = s.res := rfl
@[simp] theorem assertReset_pending (s : State) : (assertReset s).pending = false := rfl
@[simp] theorem assertReset_lcmd (s : State) : (assertReset s).lcmd = s.lcmd := rfl
@[simp] theorem assertReset_larg (s : State) : (assertReset s).larg = s.larg := rfl
@[simp] theorem assertReset_fsm (s : State) : (assertReset s).fsm = s.fsm := rfl
@[simp] theorem assertReset_err (s : State) : (assertReset s).err = s.err := rfl
@[simp] theorem assertReset_errOvf (s : State) : (assertReset s).errOvf = s.errOvf := rfl
@[simp] theorem assertReset_ecode (s : State) : (assertReset s).ecode = s.ecode := rfl
@[simp] theorem assertReset_eop (s : State) : (assertReset s).eop = s.eop := rfl
@[simp] theorem assertReset_tablesOk (s : State) : (assertReset s).tablesOk = s.tablesOk := rfl
@[simp] theorem assertReset_sbox (s : State) : (assertReset s).sbox = s.sbox := rfl
@[simp] theorem assertReset_perm (s : State) : (assertReset s).perm = s.perm := rfl
@[simp] theorem assertReset_sinv (s : State) : (assertReset s).sinv = s.sinv := rfl
@[simp] theorem assertReset_pinv (s : State) : (assertReset s).pinv = s.pinv := rfl
@[simp] theorem assertReset_inReset (s : State) : (assertReset s).inReset = true := rfl
@[simp] theorem assertReset_schedule (s : State) : (assertReset s).schedule = s.schedule := rfl
@[simp] theorem assertReset_rdata (s : State) : (assertReset s).rdata = s.rdata := rfl

@[simp] theorem portRead_st (r : PortReg) (s : State) : (portRead r s).st = s.st := rfl
@[simp] theorem portRead_arg (r : PortReg) (s : State) : (portRead r s).arg = s.arg := rfl
@[simp] theorem portRead_key (r : PortReg) (s : State) : (portRead r s).key = s.key := rfl
@[simp] theorem portRead_kvalid (r : PortReg) (s : State) : (portRead r s).kvalid = s.kvalid := rfl
@[simp] theorem portRead_gkey (r : PortReg) (s : State) : (portRead r s).gkey = s.gkey := rfl
@[simp] theorem portRead_gvalid (r : PortReg) (s : State) : (portRead r s).gvalid = s.gvalid := rfl
@[simp] theorem portRead_pmask (r : PortReg) (s : State) : (portRead r s).pmask = s.pmask := rfl
@[simp] theorem portRead_umask (r : PortReg) (s : State) : (portRead r s).umask = s.umask := rfl
@[simp] theorem portRead_rvalid (r : PortReg) (s : State) : (portRead r s).rvalid = s.rvalid := rfl
@[simp] theorem portRead_matchCnt (r : PortReg) (s : State) : (portRead r s).matchCnt = s.matchCnt := rfl
@[simp] theorem portRead_total (r : PortReg) (s : State) : (portRead r s).total = s.total := rfl
@[simp] theorem portRead_bnum (r : PortReg) (s : State) : (portRead r s).bnum = s.bnum := rfl
@[simp] theorem portRead_bden (r : PortReg) (s : State) : (portRead r s).bden = s.bden := rfl
@[simp] theorem portRead_bvalid (r : PortReg) (s : State) : (portRead r s).bvalid = s.bvalid := rfl
@[simp] theorem portRead_res (r : PortReg) (s : State) : (portRead r s).res = s.res := rfl
@[simp] theorem portRead_pending (r : PortReg) (s : State) : (portRead r s).pending = s.pending := rfl
@[simp] theorem portRead_lcmd (r : PortReg) (s : State) : (portRead r s).lcmd = s.lcmd := rfl
@[simp] theorem portRead_larg (r : PortReg) (s : State) : (portRead r s).larg = s.larg := rfl
@[simp] theorem portRead_fsm (r : PortReg) (s : State) : (portRead r s).fsm = s.fsm := rfl
@[simp] theorem portRead_err (r : PortReg) (s : State) : (portRead r s).err = s.err := rfl
@[simp] theorem portRead_errOvf (r : PortReg) (s : State) : (portRead r s).errOvf = s.errOvf := rfl
@[simp] theorem portRead_ecode (r : PortReg) (s : State) : (portRead r s).ecode = s.ecode := rfl
@[simp] theorem portRead_eop (r : PortReg) (s : State) : (portRead r s).eop = s.eop := rfl
@[simp] theorem portRead_tablesOk (r : PortReg) (s : State) : (portRead r s).tablesOk = s.tablesOk := rfl
@[simp] theorem portRead_sbox (r : PortReg) (s : State) : (portRead r s).sbox = s.sbox := rfl
@[simp] theorem portRead_perm (r : PortReg) (s : State) : (portRead r s).perm = s.perm := rfl
@[simp] theorem portRead_sinv (r : PortReg) (s : State) : (portRead r s).sinv = s.sinv := rfl
@[simp] theorem portRead_pinv (r : PortReg) (s : State) : (portRead r s).pinv = s.pinv := rfl
@[simp] theorem portRead_inReset (r : PortReg) (s : State) : (portRead r s).inReset = s.inReset := rfl
@[simp] theorem portRead_schedule (r : PortReg) (s : State) : (portRead r s).schedule = s.schedule := rfl
@[simp] theorem portRead_rdata (r : PortReg) (s : State) : (portRead r s).rdata = if s.inReset then 0 else portValue r s := rfl

@[simp] theorem recordError_st (k : ErrorKind) (op : Opcode) (s : State) : (recordError k op s).st = s.st := by unfold recordError; split <;> rfl
@[simp] theorem recordError_arg (k : ErrorKind) (op : Opcode) (s : State) : (recordError k op s).arg = s.arg := by unfold recordError; split <;> rfl
@[simp] theorem recordError_key (k : ErrorKind) (op : Opcode) (s : State) : (recordError k op s).key = s.key := by unfold recordError; split <;> rfl
@[simp] theorem recordError_kvalid (k : ErrorKind) (op : Opcode) (s : State) : (recordError k op s).kvalid = s.kvalid := by unfold recordError; split <;> rfl
@[simp] theorem recordError_gkey (k : ErrorKind) (op : Opcode) (s : State) : (recordError k op s).gkey = s.gkey := by unfold recordError; split <;> rfl
@[simp] theorem recordError_gvalid (k : ErrorKind) (op : Opcode) (s : State) : (recordError k op s).gvalid = s.gvalid := by unfold recordError; split <;> rfl
@[simp] theorem recordError_pmask (k : ErrorKind) (op : Opcode) (s : State) : (recordError k op s).pmask = s.pmask := by unfold recordError; split <;> rfl
@[simp] theorem recordError_umask (k : ErrorKind) (op : Opcode) (s : State) : (recordError k op s).umask = s.umask := by unfold recordError; split <;> rfl
@[simp] theorem recordError_rvalid (k : ErrorKind) (op : Opcode) (s : State) : (recordError k op s).rvalid = s.rvalid := by unfold recordError; split <;> rfl
@[simp] theorem recordError_matchCnt (k : ErrorKind) (op : Opcode) (s : State) : (recordError k op s).matchCnt = s.matchCnt := by unfold recordError; split <;> rfl
@[simp] theorem recordError_total (k : ErrorKind) (op : Opcode) (s : State) : (recordError k op s).total = s.total := by unfold recordError; split <;> rfl
@[simp] theorem recordError_bnum (k : ErrorKind) (op : Opcode) (s : State) : (recordError k op s).bnum = s.bnum := by unfold recordError; split <;> rfl
@[simp] theorem recordError_bden (k : ErrorKind) (op : Opcode) (s : State) : (recordError k op s).bden = s.bden := by unfold recordError; split <;> rfl
@[simp] theorem recordError_bvalid (k : ErrorKind) (op : Opcode) (s : State) : (recordError k op s).bvalid = s.bvalid := by unfold recordError; split <;> rfl
@[simp] theorem recordError_res (k : ErrorKind) (op : Opcode) (s : State) : (recordError k op s).res = s.res := by unfold recordError; split <;> rfl
@[simp] theorem recordError_pending (k : ErrorKind) (op : Opcode) (s : State) : (recordError k op s).pending = s.pending := by unfold recordError; split <;> rfl
@[simp] theorem recordError_lcmd (k : ErrorKind) (op : Opcode) (s : State) : (recordError k op s).lcmd = s.lcmd := by unfold recordError; split <;> rfl
@[simp] theorem recordError_larg (k : ErrorKind) (op : Opcode) (s : State) : (recordError k op s).larg = s.larg := by unfold recordError; split <;> rfl
@[simp] theorem recordError_fsm (k : ErrorKind) (op : Opcode) (s : State) : (recordError k op s).fsm = s.fsm := by unfold recordError; split <;> rfl
@[simp] theorem recordError_err (k : ErrorKind) (op : Opcode) (s : State) : (recordError k op s).err = true := by
  unfold recordError; cases s.err <;> simp
@[simp] theorem recordError_errOvf (k : ErrorKind) (op : Opcode) (s : State) : (recordError k op s).errOvf = (s.err || s.errOvf) := by
  unfold recordError; cases s.err <;> simp
@[simp] theorem recordError_ecode (k : ErrorKind) (op : Opcode) (s : State) : (recordError k op s).ecode = if s.err then s.ecode else k.code := by
  unfold recordError; cases s.err <;> simp
@[simp] theorem recordError_eop (k : ErrorKind) (op : Opcode) (s : State) : (recordError k op s).eop = if s.err then s.eop else op := by
  unfold recordError; cases s.err <;> simp
@[simp] theorem recordError_tablesOk (k : ErrorKind) (op : Opcode) (s : State) : (recordError k op s).tablesOk = s.tablesOk := by unfold recordError; split <;> rfl
@[simp] theorem recordError_sbox (k : ErrorKind) (op : Opcode) (s : State) : (recordError k op s).sbox = s.sbox := by unfold recordError; split <;> rfl
@[simp] theorem recordError_perm (k : ErrorKind) (op : Opcode) (s : State) : (recordError k op s).perm = s.perm := by unfold recordError; split <;> rfl
@[simp] theorem recordError_sinv (k : ErrorKind) (op : Opcode) (s : State) : (recordError k op s).sinv = s.sinv := by unfold recordError; split <;> rfl
@[simp] theorem recordError_pinv (k : ErrorKind) (op : Opcode) (s : State) : (recordError k op s).pinv = s.pinv := by unfold recordError; split <;> rfl
@[simp] theorem recordError_inReset (k : ErrorKind) (op : Opcode) (s : State) : (recordError k op s).inReset = s.inReset := by unfold recordError; split <;> rfl
@[simp] theorem recordError_schedule (k : ErrorKind) (op : Opcode) (s : State) : (recordError k op s).schedule = s.schedule := by unfold recordError; split <;> rfl
@[simp] theorem recordError_rdata (k : ErrorKind) (op : Opcode) (s : State) : (recordError k op s).rdata = s.rdata := by unfold recordError; split <;> rfl

@[simp] theorem faulted_st (k : ErrorKind) (s : State) : (faulted k s).st = s.st := by simp [faulted]
@[simp] theorem faulted_arg (k : ErrorKind) (s : State) : (faulted k s).arg = s.arg := by simp [faulted]
@[simp] theorem faulted_key (k : ErrorKind) (s : State) : (faulted k s).key = s.key := by simp [faulted]
@[simp] theorem faulted_kvalid (k : ErrorKind) (s : State) : (faulted k s).kvalid = s.kvalid := by simp [faulted]
@[simp] theorem faulted_gkey (k : ErrorKind) (s : State) : (faulted k s).gkey = s.gkey := by simp [faulted]
@[simp] theorem faulted_gvalid (k : ErrorKind) (s : State) : (faulted k s).gvalid = s.gvalid := by simp [faulted]
@[simp] theorem faulted_pmask (k : ErrorKind) (s : State) : (faulted k s).pmask = s.pmask := by simp [faulted]
@[simp] theorem faulted_umask (k : ErrorKind) (s : State) : (faulted k s).umask = s.umask := by simp [faulted]
@[simp] theorem faulted_rvalid (k : ErrorKind) (s : State) : (faulted k s).rvalid = s.rvalid := by simp [faulted]
@[simp] theorem faulted_matchCnt (k : ErrorKind) (s : State) : (faulted k s).matchCnt = s.matchCnt := by simp [faulted]
@[simp] theorem faulted_total (k : ErrorKind) (s : State) : (faulted k s).total = s.total := by simp [faulted]
@[simp] theorem faulted_bnum (k : ErrorKind) (s : State) : (faulted k s).bnum = s.bnum := by simp [faulted]
@[simp] theorem faulted_bden (k : ErrorKind) (s : State) : (faulted k s).bden = s.bden := by simp [faulted]
@[simp] theorem faulted_bvalid (k : ErrorKind) (s : State) : (faulted k s).bvalid = s.bvalid := by simp [faulted]
@[simp] theorem faulted_res (k : ErrorKind) (s : State) : (faulted k s).res = s.res := by simp [faulted]
@[simp] theorem faulted_pending (k : ErrorKind) (s : State) : (faulted k s).pending = false := rfl
@[simp] theorem faulted_lcmd (k : ErrorKind) (s : State) : (faulted k s).lcmd = s.lcmd := by simp [faulted]
@[simp] theorem faulted_larg (k : ErrorKind) (s : State) : (faulted k s).larg = s.larg := by simp [faulted]
@[simp] theorem faulted_fsm (k : ErrorKind) (s : State) : (faulted k s).fsm = s.fsm := by simp [faulted]
@[simp] theorem faulted_err (k : ErrorKind) (s : State) : (faulted k s).err = true := by simp [faulted]
@[simp] theorem faulted_errOvf (k : ErrorKind) (s : State) : (faulted k s).errOvf = (s.err || s.errOvf) := by simp [faulted]
@[simp] theorem faulted_ecode (k : ErrorKind) (s : State) : (faulted k s).ecode = if s.err then s.ecode else k.code := by simp [faulted]
@[simp] theorem faulted_eop (k : ErrorKind) (s : State) : (faulted k s).eop = if s.err then s.eop else pendingOpcode s := by simp [faulted]
@[simp] theorem faulted_tablesOk (k : ErrorKind) (s : State) : (faulted k s).tablesOk = s.tablesOk := by simp [faulted]
@[simp] theorem faulted_sbox (k : ErrorKind) (s : State) : (faulted k s).sbox = s.sbox := by simp [faulted]
@[simp] theorem faulted_perm (k : ErrorKind) (s : State) : (faulted k s).perm = s.perm := by simp [faulted]
@[simp] theorem faulted_sinv (k : ErrorKind) (s : State) : (faulted k s).sinv = s.sinv := by simp [faulted]
@[simp] theorem faulted_pinv (k : ErrorKind) (s : State) : (faulted k s).pinv = s.pinv := by simp [faulted]
@[simp] theorem faulted_inReset (k : ErrorKind) (s : State) : (faulted k s).inReset = s.inReset := by simp [faulted]
@[simp] theorem faulted_schedule (k : ErrorKind) (s : State) : (faulted k s).schedule = s.schedule := by simp [faulted]
@[simp] theorem faulted_rdata (k : ErrorKind) (s : State) : (faulted k s).rdata = s.rdata := by simp [faulted]

end Sys2Proof.Machine
end

