-- ==== Sys2Proof/Laws/Ops.lean ====
section
/-! SUPPORT. What each shared operation can do, once: provers cite these instead of unfolding the operation. -/

namespace Sys2Proof.Machine

/-! ## Settling a command (R40, R204) -/

@[simp] theorem settle_ok (s t : State) : settle s (.ok t) = .next (retire t) := rfl

@[simp] theorem settle_error (s : State) (k : ErrorKind) : settle s (.error k) = .next (faulted k s) := rfl

/-- Settling always answers a next state: the rule's result, or the recorded error. -/
theorem settle_eq_next_iff {s t : State} {r : Except ErrorKind State} :
    settle s r = .next t ↔ (∃ u, r = .ok u ∧ t = retire u) ∨ ∃ k, r = .error k ∧ t = faulted k s := by
  cases r with
  | ok u => simp [eq_comm]
  | error k => simp [eq_comm]

theorem settle_answers_next (s : State) (r : Except ErrorKind State) : ∃ t, settle s r = .next t := by
  cases r with
  | ok u => exact ⟨_, rfl⟩
  | error k => exact ⟨_, rfl⟩

/-- Every command answers a next state, in every state: none faults and none is refused. -/
theorem exec_answers_next (i : Instr) (s : State) : ∃ t, exec i s = .next t := by
  cases i <;> first | exact ⟨_, rfl⟩ | exact settle_answers_next s _

theorem completeCommand_answers_next (s : State) : ∃ t, completeCommand s = .next t := by
  unfold completeCommand
  split
  · exact exec_answers_next _ s
  · exact ⟨_, rfl⟩

theorem coreTurn_answers_next (s : State) : ∃ t, coreTurn s = .next t := by
  unfold coreTurn
  split
  · exact completeCommand_answers_next s
  · exact ⟨s, rfl⟩

/-! ## Recording an error (R205) -/

theorem recordError_first {k : ErrorKind} {op : Opcode} {s : State} (h : s.err = false) :
    recordError k op s = { s with err := true, ecode := k.code, eop := op } := by
  simp [recordError, h]

theorem recordError_later {k : ErrorKind} {op : Opcode} {s : State} (h : s.err = true) :
    recordError k op s = { s with errOvf := true } := by
  simp [recordError, h]

/-! ## The checks and the operand forms (R81, R83, R102) -/

@[simp] theorem require_true (k : ErrorKind) : require true k = .ok () := rfl

@[simp] theorem require_false (k : ErrorKind) : require false k = .error k := rfl

theorem require_eq (c : Bool) (k : ErrorKind) : require c k = if c then .ok () else .error k := rfl

@[simp] theorem hiBlock_eq_zero_iff (w : Word) : hiBlock w = 0 ↔ w.toNat < 65536 := by
  rw [hiBlock, ← BitVec.toNat_inj, BitVec.extractLsb'_toNat]
  have := w.isLt
  simp [Nat.shiftRight_eq_div_pow]
  omega

theorem loBlock_eq_setWidth (w : Word) : loBlock w = w.setWidth 16 := by
  apply BitVec.eq_of_toNat_eq
  simp [loBlock]

/-- The form `blk` is its low half where the word is in range (R81). -/
theorem blkOperand_ok {s : State} (h : s.larg.toNat < 65536) : blkOperand s = .ok (s.larg.setWidth 16) := by
  have h' : hiBlock s.larg = 0 := (hiBlock_eq_zero_iff _).2 h
  unfold blkOperand
  rw [if_neg (by simpa using h'), loBlock_eq_setWidth]

/-- The form `blk` is RangeError where the word is out of range (R81, R102). -/
theorem blkOperand_error {s : State} (h : 65536 ≤ s.larg.toNat) : blkOperand s = .error .range := by
  have h' : hiBlock s.larg ≠ 0 := fun e => by
    have := (hiBlock_eq_zero_iff _).1 e
    omega
  unfold blkOperand
  rw [if_pos h']

theorem posOperand_ok {s : State} (h₁ : 1 ≤ s.larg.toNat) (h₂ : s.larg.toNat ≤ 16) :
    posOperand s = .ok s.larg.toNat := by
  unfold posOperand
  rw [if_neg (by omega)]

theorem posOperand_error {s : State} (h : s.larg.toNat < 1 ∨ 16 < s.larg.toNat) :
    posOperand s = .error .index := by
  unfold posOperand
  rw [if_pos (by omega)]

theorem keyOperand_ok {k : BitVec 4} {i : Fin 5} (h : k.toNat = i.val + 1) : keyOperand k = .ok i := by
  have hi := i.isLt
  unfold keyOperand
  rw [dif_pos (by omega)]
  congr 1
  apply Fin.ext
  simp [h]

theorem keyOperand_error {k : BitVec 4} (h : k.toNat < 1 ∨ 5 < k.toNat) : keyOperand k = .error .configuration := by
  unfold keyOperand
  rw [dif_neg (by omega)]

@[simp] theorem needTables_ok {s : State} (h : s.tablesOk = true) : needTables s = .ok () := by
  simp [needTables, h]

@[simp] theorem needTables_error {s : State} (h : s.tablesOk = false) : needTables s = .error .table := by
  simp [needTables, h]

theorem allKeysValid_iff {s : State} : allKeysValid s = true ↔ ∀ i : Fin 5, s.kvalid[i] = true := by
  simp [allKeysValid]

/-- The high half of a word put together from two blocks (R81, forms `pair` and `rel`). -/
theorem hiBlock_append (p c : Block) : hiBlock (p ++ c) = p := by
  apply BitVec.eq_of_getLsbD_eq
  intro i hi
  unfold hiBlock
  rw [BitVec.getLsbD_extractLsb', BitVec.getLsbD_append]
  simp [hi]

/-- The low half of a word put together from two blocks (R81, forms `pair` and `rel`). -/
theorem loBlock_append (p c : Block) : loBlock (p ++ c) = c := by
  apply BitVec.eq_of_getLsbD_eq
  intro i hi
  unfold loBlock
  rw [BitVec.getLsbD_extractLsb', BitVec.getLsbD_append]
  simp [hi]

/-- A counter below its width's bound counts exactly (R167). -/
theorem countIf_toNat {b : Bool} {c : Word} (h : c.toNat < 2 ^ 32 - 1) : (countIf b c).toNat = c.toNat + b.toNat := by
  cases b with
  | false => simp [countIf]
  | true =>
    have : c.toNat + 1 < 2 ^ 32 := by omega
    simp [countIf, BitVec.toNat_add]
    omega

theorem biasNumerator_le {m t : Nat} (h : m ≤ t) : biasNumerator m t ≤ t := by
  unfold biasNumerator
  split <;> omega

/-! ## The port (R61, R64, R230) -/

theorem presentCommand_accepts {w : Word} {s : State} (h : s.pending = false) : presentCommand w s = latch w s := by
  simp [presentCommand, h]

theorem presentCommand_overrun {w : Word} {s : State} (h : s.pending = true) :
    presentCommand w s = recordError .overrun (w.extractLsb' 0 8) s := by
  simp [presentCommand, h]

theorem portWrite_inReset {r : PortReg} {v : Word} {s : State} (h : s.inReset = true) : portWrite r v s = s := by
  simp [portWrite, h]

/-- What a port write can do, in all: nothing, accept a command, record an Overrun, or write ARG. -/
theorem portWrite_cases (r : PortReg) (v : Word) (s : State) :
    portWrite r v s = s ∨
      (s.inReset = false ∧ s.pending = false ∧ portWrite r v s = latch v s) ∨
      (s.inReset = false ∧ s.pending = true ∧ portWrite r v s = recordError .overrun (v.extractLsb' 0 8) s) ∨
      (s.inReset = false ∧ portWrite r v s = { s with arg := v }) := by
  cases hr : s.inReset with
  | true => exact .inl (portWrite_inReset hr)
  | false =>
    cases r with
    | cmd =>
      cases hp : s.pending with
      | false => exact .inr (.inl ⟨rfl, rfl, by simp [portWrite, hr, presentCommand, hp]⟩)
      | true => exact .inr (.inr (.inl ⟨rfl, rfl, by simp [portWrite, hr, presentCommand, hp]⟩))
    | arg => exact .inr (.inr (.inr ⟨rfl, by simp [portWrite, hr]⟩))
    | _ => exact .inl (by simp [portWrite, hr])

theorem portWrite_cmd {v : Word} {s : State} (h : s.inReset = false) : portWrite .cmd v s = presentCommand v s := by
  simp [portWrite, h]

theorem portWrite_arg {v : Word} {s : State} (h : s.inReset = false) : portWrite .arg v s = { s with arg := v } := by
  simp [portWrite, h]

/-- BUSY is bit 0 of STATUS, and the other bits do not depend on it (R32). -/
theorem statusWord_with_pending (s : State) (b : Bool) :
    ∃ hi : BitVec 31, statusWord s = hi ++ BitVec.ofBool s.pending ∧
      statusWord { s with pending := b } = hi ++ BitVec.ofBool b := ⟨_, rfl, rfl⟩

/-- The bits of a word with one more bit below it. -/
theorem getLsbD_append_ofBool {w : Nat} (x : BitVec w) (b : Bool) (n : Nat) :
    (x ++ BitVec.ofBool b).getLsbD n = if n = 0 then b else x.getLsbD (n - 1) := by
  rw [BitVec.getLsbD_append]
  rcases Nat.eq_zero_or_pos n with h | h
  · subst h
    cases b <;> rfl
  · rw [if_neg (by omega), if_neg (by omega)]

/-! ## The core's turn (R40, R83) -/

theorem coreTurn_busy {s : State} (hp : s.pending = true) (hr : s.inReset = false) :
    coreTurn s = completeCommand s := by
  simp [coreTurn, hp, hr]

theorem coreTurn_idle {s : State} (h : s.pending = false) : coreTurn s = .next s := by
  simp [coreTurn, h]

theorem completeCommand_decoded {s : State} {i : Instr} (h : decode s.lcmd = .ok i) :
    completeCommand s = exec i s := by
  simp [completeCommand, h]

theorem completeCommand_illegal {s : State} {e : DecodeError} (h : decode s.lcmd = .error e) :
    completeCommand s = .next (faulted .illegalCommand s) := by
  simp [completeCommand, h, raise]

/-! ## A step (R11, R68) -/

theorem step_empty {s : State} (h : s.schedule = []) : step s = coreTurn s := by
  simp [step, nextTurn, h]

theorem step_event {s : State} {e : Event} {rest : List Event} (h : s.schedule = e :: rest) :
    step s = perform e { s with schedule := rest } := by
  simp [step, nextTurn, h]

/-- What a step can do, in all: nothing, complete the command in flight, serve a port access, change the reset input, or
refuse a bus access; the schedule loses its first event. -/
theorem step_cases {s t : State} (h : step s = .next t) :
    ∃ u : State, u = { s with schedule := s.schedule.tail } ∧
      (t = u ∨
        (u.pending = true ∧ u.inReset = false ∧ completeCommand u = .next t) ∨
        (∃ r, t = portRead r u) ∨
        (∃ r v, t = portWrite r v u) ∨
        t = assertReset u ∨
        t = releaseReset u) := by
  have core : ∀ u : State, coreTurn u = .next t →
      t = u ∨ (u.pending = true ∧ u.inReset = false ∧ completeCommand u = .next t) := by
    intro u hu
    unfold coreTurn at hu
    split at hu
    · next hc =>
      simp at hc
      exact .inr ⟨hc.1, hc.2, hu⟩
    · simp at hu
      exact .inl hu.symm
  obtain ⟨u, hu⟩ : ∃ u : State, u = { s with schedule := s.schedule.tail } := ⟨_, rfl⟩
  refine ⟨u, hu, ?_⟩
  cases hs : s.schedule with
  | nil =>
    rw [step_empty hs] at h
    have e : u = s := by
      rw [hu, hs]
      cases s
      simp_all
    rw [e]
    rcases core s h with h' | h'
    · exact .inl h'
    · exact .inr (.inl h')
  | cons e rest =>
    have e' : { s with schedule := rest } = u := by rw [hu, hs]; rfl
    rw [step_event hs, e'] at h
    cases e with
    | core =>
      rcases core u h with h' | h'
      · exact .inl h'
      · exact .inr (.inl h')
    | read r =>
      simp [perform] at h
      exact .inr (.inr (.inl ⟨r, h.symm⟩))
    | write r v =>
      simp [perform] at h
      exact .inr (.inr (.inr (.inl ⟨r, v, h.symm⟩)))
    | busRead o n =>
      simp only [perform, busAccess] at h
      split at h
      · next r _ =>
        simp at h
        exact .inr (.inr (.inl ⟨r, h.symm⟩))
      · simp at h
    | busWrite o n v =>
      simp only [perform, busAccess] at h
      split at h
      · next r _ =>
        simp at h
        exact .inr (.inr (.inr (.inl ⟨r, v, h.symm⟩)))
      · simp at h
    | resetAssert =>
      simp [perform] at h
      exact .inr (.inr (.inr (.inr (.inl h.symm))))
    | resetRelease =>
      simp [perform] at h
      exact .inr (.inr (.inr (.inr (.inr h.symm))))

end Sys2Proof.Machine
end

