-- ==== Sys2Proof/Laws/Exec.lean ====
section
/-! SUPPORT. What a command can do, once for all commands: either it records an error, or it was ready and its effect is
`effect`. Later proofs cite `exec_cases` and never unfold the meanings. -/

namespace Sys2Proof.Machine

/-- Every check of a command's rule passes. -/
def ready (i : Instr) (s : State) : Bool :=
  match i with
  | .nop | .clrkeys | .ldrel | .clrcnt | .clrerr => true
  | .ldst | .xori | .ldgk => decide (s.larg.toNat < 65536)
  | .xork k => keyIndexLegal k && s.kvalid[k.toNat - 1]?.getD false
  | .sub | .isub | .perm | .iperm => s.tablesOk
  | .getbit => decide (1 ≤ s.larg.toNat) && decide (s.larg.toNat ≤ 16)
  | .ldkey k => keyIndexLegal k && decide (s.larg.toNat < 65536)
  | .enc | .dec => s.tablesOk && allKeysValid s
  | .partialInv => s.tablesOk && s.gvalid && decide (s.larg.toNat < 65536)
  | .check => s.tablesOk && (s.gvalid && s.rvalid)
  | .accum => s.tablesOk && (s.gvalid && s.rvalid) && s.total != Config.totalMax
  | .bias => s.total != 0

/-- What a command that is ready writes, PENDING apart. -/
def effect (i : Instr) (s : State) : State :=
  match i with
  | .nop => s
  | .ldst => { s with st := s.larg.setWidth 16 }
  | .xori => { s with st := s.st ^^^ s.larg.setWidth 16 }
  | .xork k => { s with st := s.st ^^^ s.key[k.toNat - 1]?.getD 0 }
  | .sub => { s with st := layer s.sbox s.st }
  | .isub => { s with st := layer s.sinv s.st }
  | .perm => { s with st := move s.perm s.st }
  | .iperm => { s with st := move s.pinv s.st }
  | .getbit => { s with res := bitAt s.st s.larg.toNat }
  | .ldkey k =>
    { s with
      key := s.key.setIfInBounds (k.toNat - 1) (s.larg.setWidth 16)
      kvalid := s.kvalid.setIfInBounds (k.toNat - 1) true }
  | .clrkeys => { s with key := Vector.replicate 5 0, kvalid := Vector.replicate 5 false }
  | .enc => { s with st := (fsmFinal s .encrypt).w ^^^ s.key[4], fsm := fsmFinal s .encrypt }
  | .dec => { s with st := (fsmFinal s .decrypt).w, fsm := fsmFinal s .decrypt }
  | .ldgk => { s with gkey := s.larg.setWidth 16, gvalid := true }
  | .ldrel => { s with pmask := hiBlock s.larg, umask := loBlock s.larg, rvalid := true }
  | .partialInv => { s with st := partialInverse s.sinv (s.larg.setWidth 16) s.gkey }
  | .check => { s with res := pairHolds s (pairOperand s) }
  | .accum =>
    { s with
      res := pairHolds s (pairOperand s)
      total := countIf true s.total
      matchCnt := countIf (pairHolds s (pairOperand s)) s.matchCnt
      bvalid := false }
  | .clrcnt => { s with matchCnt := 0, total := 0, bnum := 0, bden := 0, bvalid := false }
  | .bias =>
    { s with
      bnum := BitVec.ofNat 32 (biasNumerator s.matchCnt.toNat s.total.toNat)
      bden := BitVec.ofNat 32 (2 * s.total.toNat)
      bvalid := true }
  | .clrerr => clearErrorRecord s

/-- A key index is legal and names a key register, or it is not and the operand is ConfigurationError (R83). -/
theorem keyOperand_cases (k : BitVec 4) :
    (keyIndexLegal k = true ∧ ∃ i : Fin 5, k.toNat - 1 = i.val ∧ keyOperand k = .ok i) ∨
      (keyIndexLegal k = false ∧ keyOperand k = .error .configuration) := by
  by_cases h : 1 ≤ k.toNat ∧ k.toNat ≤ 5
  · refine .inl ⟨by simp [keyIndexLegal, h.1, h.2], ⟨k.toNat - 1, by omega⟩, rfl, ?_⟩
    exact keyOperand_ok (by simp; omega)
  · refine .inr ⟨?_, keyOperand_error (by omega)⟩
    simp only [keyIndexLegal, Bool.and_eq_false_iff, decide_eq_false_iff_not]
    omega

/-- A rule that begins by a check either raises its error or goes on. -/
theorem settle_require (s : State) (c : Bool) (k : ErrorKind) (r : Except ErrorKind State) :
    settle s (require c k >>= fun _ => r) = if c then settle s r else .next (faulted k s) := by
  cases c <;> rfl

theorem settle_needTables (s : State) (r : Except ErrorKind State) :
    settle s (needTables s >>= fun _ => r) = if s.tablesOk then settle s r else .next (faulted .table s) :=
  settle_require s _ _ r

/-- A rule whose operand is a block either raises RangeError or goes on with it. -/
theorem settle_blkOperand (s : State) (f : Block → Except ErrorKind State) :
    settle s (blkOperand s >>= f) =
      if s.larg.toNat < 65536 then settle s (f (s.larg.setWidth 16)) else .next (faulted .range s) := by
  split
  · next h => rw [blkOperand_ok h]; rfl
  · next h => rw [blkOperand_error (by omega)]; rfl

/-- A rule whose operand is a position either raises IndexError or goes on with it. -/
theorem settle_posOperand (s : State) (f : Nat → Except ErrorKind State) :
    settle s (posOperand s >>= f) =
      if 1 ≤ s.larg.toNat ∧ s.larg.toNat ≤ 16 then settle s (f s.larg.toNat) else .next (faulted .index s) := by
  split
  · next h => rw [posOperand_ok h.1 h.2]; rfl
  · next h => rw [posOperand_error (by omega)]; rfl

theorem settle_needCipher (s : State) (r : Except ErrorKind State) :
    settle s (needCipher s >>= fun _ => r) =
      if s.tablesOk then if allKeysValid s then settle s r else .next (faulted .configuration s)
      else .next (faulted .table s) := by
  cases ht : s.tablesOk <;> cases hk : allKeysValid s <;> simp [needCipher, ht, hk, bind, Except.bind]

theorem settle_needChecker (s : State) (r : Except ErrorKind State) :
    settle s (needChecker s >>= fun _ => r) =
      if s.tablesOk then if s.gvalid && s.rvalid then settle s r else .next (faulted .configuration s)
      else .next (faulted .table s) := by
  cases ht : s.tablesOk <;> cases hg : s.gvalid <;> cases hr : s.rvalid <;>
    simp [needChecker, ht, hg, hr, bind, Except.bind]

/-- A command that is ready has its effect. -/
theorem exec_of_ready {i : Instr} {s : State} (h : ready i s = true) : exec i s = .next (retire (effect i s)) := by
  cases i with
  | xork k =>
    simp only [ready, Bool.and_eq_true] at h
    rcases keyOperand_cases k with ⟨-, j, hj, ho⟩ | ⟨hf, -⟩
    · have hv : s.kvalid[j] = true := by
        have := h.2
        rw [hj] at this
        simpa using this
      simp only [exec, execXork, ho, effect, hj]
      change settle s (require s.kvalid[j] _ >>= fun _ => _) = _
      rw [settle_require, hv]
      simp [pure, Except.pure]
    · simp [h.1] at hf
  | ldkey k =>
    simp only [ready, Bool.and_eq_true, decide_eq_true_eq] at h
    rcases keyOperand_cases k with ⟨-, j, hj, ho⟩ | ⟨hf, -⟩
    · simp only [exec, execLdkey, ho, effect, hj]
      change settle s (blkOperand s >>= fun b => _) = _
      rw [settle_blkOperand, if_pos h.2]
      have hs : ∀ {α : Type} (v : Vector α 5) (a : α), v.setIfInBounds j.val a = v.set j.val a := by
        intro α v a
        ext n hn
        simp [Vector.getElem_set, Vector.getElem_setIfInBounds]
      simp only [pure, Except.pure, settle_ok, hs]
    · simp [h.1] at hf
  | _ =>
    simp only [ready, Bool.and_eq_true, decide_eq_true_eq] at h
    simp only [exec, execNop, execLdst, execXori, execSub, execIsub, execPerm, execIperm, execGetbit, execClrkeys,
      execEnc, execDec, execLdgk, execLdrel, execPartialInv, execCheck, execAccum, execClrcnt, execBias, execClrerr,
      settle_require, settle_needTables, settle_blkOperand, settle_posOperand, settle_needCipher, settle_needChecker]
    simp_all [effect, pure, Except.pure, setRes, relOperand]

/-- A command that is not ready records an error and does nothing else. -/
theorem exec_of_not_ready {i : Instr} {s : State} (h : ready i s = false) : ∃ k, exec i s = .next (faulted k s) := by
  cases i with
  | xork k =>
    rcases keyOperand_cases k with ⟨hl, j, hj, ho⟩ | ⟨-, ho⟩
    · have hv : s.kvalid[j] = false := by
        simp only [ready, hl, hj, Bool.true_and] at h
        simpa using h
      refine ⟨.configuration, ?_⟩
      simp only [exec, execXork, ho]
      change settle s (require s.kvalid[j] _ >>= fun _ => _) = _
      rw [settle_require, hv]
      rfl
    · exact ⟨.configuration, by simp only [exec, execXork, ho]; rfl⟩
  | ldkey k =>
    rcases keyOperand_cases k with ⟨hl, j, hj, ho⟩ | ⟨-, ho⟩
    · have hr : ¬s.larg.toNat < 65536 := by simpa [ready, hl] using h
      refine ⟨.range, ?_⟩
      simp only [exec, execLdkey, ho]
      change settle s (blkOperand s >>= fun b => _) = _
      rw [settle_blkOperand, if_neg hr]
    · exact ⟨.configuration, by simp only [exec, execLdkey, ho]; rfl⟩
  | getbit =>
    simp only [ready, Bool.and_eq_false_iff, decide_eq_false_iff_not] at h
    refine ⟨.index, ?_⟩
    simp only [exec, execGetbit, settle_posOperand]
    rw [if_neg (by omega)]
  | _ =>
    simp only [ready, exec, execNop, execLdst, execXori, execSub, execIsub, execPerm, execIperm, execClrkeys, execEnc,
      execDec, execLdgk, execLdrel, execPartialInv, execCheck, execAccum, execClrcnt, execBias, execClrerr,
      settle_require, settle_needTables, settle_blkOperand, settle_needCipher, settle_needChecker,
      Bool.and_eq_false_iff, decide_eq_false_iff_not] at h ⊢
    repeat' split
    all_goals first | exact ⟨_, rfl⟩ | simp_all

/-- What a command can do, in all: record an error, or have its effect, having been ready. -/
theorem exec_cases {i : Instr} {s t : State} (h : exec i s = .next t) :
    (ready i s = false ∧ ∃ k, t = faulted k s) ∨ (ready i s = true ∧ t = retire (effect i s)) := by
  cases hr : ready i s with
  | false =>
    obtain ⟨k, hk⟩ := exec_of_not_ready hr
    rw [h] at hk
    cases hk
    exact .inl ⟨rfl, k, rfl⟩
  | true =>
    have he := exec_of_ready hr
    rw [h] at he
    cases he
    exact .inr ⟨rfl, rfl⟩

/-- What the completion of a command can do, in all (R83, R204). -/
theorem completeCommand_cases {s t : State} (h : completeCommand s = .next t) :
    (∃ k, t = faulted k s) ∨ ∃ i, decode s.lcmd = .ok i ∧ ready i s = true ∧ t = retire (effect i s) := by
  unfold completeCommand at h
  split at h
  · next i hi =>
    rcases exec_cases h with ⟨-, k, hk⟩ | ⟨hr, ht⟩
    · exact .inl ⟨k, hk⟩
    · exact .inr ⟨i, hi, hr, ht⟩
  · simp [raise] at h
    exact .inl ⟨_, h.symm⟩

end Sys2Proof.Machine
end

