-- ==== Sys2Proof/Laws/Layers.lean ====
section
/-! SUPPORT. What the layer functions do to one nibble and to one bit, what the parity of a block and of a sum is, and
what a loop that fills a table leaves in it. -/

namespace Sys2Proof.Machine

/-- Nibble n of a layer is the table's entry at nibble n (R100): bits `4 n + 3` to `4 n`, n counted from the low end. -/
theorem layer_nibble (t : SboxTable) (v : Block) {n : Nat} (h : n < 4) :
    (layer t v).extractLsb' (4 * n) 4 = lookNibble t (v.extractLsb' (4 * n) 4) := by
  have app : ∀ a b c d : Nibble,
      (a ++ b ++ c ++ d).extractLsb' 12 4 = a ∧ (a ++ b ++ c ++ d).extractLsb' 8 4 = b ∧
        (a ++ b ++ c ++ d).extractLsb' 4 4 = c ∧ (a ++ b ++ c ++ d).extractLsb' 0 4 = d := by
    intro a b c d
    refine ⟨?_, ?_, ?_, ?_⟩ <;> ext i hi <;> rw [BitVec.getElem_extractLsb'] <;>
      simp only [BitVec.getLsbD_append] <;> interval_cases i <;> simp
  obtain ⟨h3, h2, h1, h0⟩ := app (lookNibble t (v.extractLsb' 12 4)) (lookNibble t (v.extractLsb' 8 4))
    (lookNibble t (v.extractLsb' 4 4)) (lookNibble t (v.extractLsb' 0 4))
  match n, h with
  | 0, _ => exact h0
  | 1, _ => exact h1
  | 2, _ => exact h2
  | 3, _ => exact h3

/-- Two blocks with equal nibbles are equal. -/
theorem block_ext_nibbles {v w : Block} (h : ∀ n, n < 4 → v.extractLsb' (4 * n) 4 = w.extractLsb' (4 * n) 4) :
    v = w := by
  apply BitVec.eq_of_getLsbD_eq
  intro i hi
  have e := congrArg (fun x => x.getLsbD (i % 4)) (h (i / 4) (by omega))
  have hm : i % 4 < 4 := Nat.mod_lt _ (by decide)
  simpa [BitVec.getLsbD_extractLsb', hm, Nat.div_add_mod] using e

/-- The bit of a mask at position j (R6). -/
theorem bitAt_bitTo (b : Bool) (p j : Nat) (hj : 1 ≤ j) (hj' : j ≤ 16) :
    bitAt (bitTo b p) j = (b && decide (p = j)) := by
  unfold bitAt bitTo
  split
  · next h =>
    obtain ⟨rfl, h₁, h₂⟩ := h
    simp only [BitVec.getLsbD_shiftLeft, BitVec.getLsbD_one, Bool.true_and]
    by_cases e : p = j
    · subst e
      simp
      omega
    · simp [e]
      omega
  · next h =>
    by_cases e : p = j
    · subst e
      cases b <;> simp_all
    · simp [e]

/-- A bit of a moved block: some position that holds a 1 goes there (R101). -/
theorem bitAt_move (q : PermTable) (v : Block) {j : Nat} (hj : 1 ≤ j) (hj' : j ≤ 16) :
    bitAt (move q v) j = true ↔ ∃ i, 1 ≤ i ∧ i ≤ 16 ∧ lookPosition q i = j ∧ bitAt v i = true := by
  have fold : ∀ (l : List Nat) (acc : Block),
      bitAt (l.foldl (fun a i => a ||| bitTo (bitAt v i) (lookPosition q i)) acc) j = true ↔
        bitAt acc j = true ∨ ∃ i ∈ l, lookPosition q i = j ∧ bitAt v i = true := by
    intro l
    induction l with
    | nil => simp
    | cons a l ih =>
      intro acc
      have hb := bitAt_bitTo (bitAt v a) (lookPosition q a) j hj hj'
      have ho : bitAt (acc ||| bitTo (bitAt v a) (lookPosition q a)) j
          = (bitAt acc j || (bitAt v a && decide (lookPosition q a = j))) := by
        rw [← hb]
        simp [bitAt]
      rw [List.foldl_cons, ih, ho]
      simp only [Bool.or_eq_true, Bool.and_eq_true, decide_eq_true_eq, List.mem_cons, exists_eq_or_imp]
      tauto
  rw [move, fold]
  have z : bitAt 0 j = false := by simp [bitAt]
  simp only [z, Bool.false_eq_true, false_or]
  constructor
  · rintro ⟨i, hi, h⟩
    simp [List.mem_range'] at hi
    obtain ⟨k, hk, rfl⟩ := hi
    exact ⟨_, by omega, by omega, h⟩
  · rintro ⟨i, h1, h2, h⟩
    exact ⟨i, by simp [List.mem_range']; exact ⟨i - 1, by omega, by omega⟩, h⟩

/-- Two blocks with equal bits at the 16 positions are equal (R6). -/
theorem block_ext_positions {v w : Block} (h : ∀ p, 1 ≤ p → p ≤ 16 → bitAt v p = bitAt w p) : v = w := by
  apply BitVec.eq_of_getLsbD_eq
  intro i hi
  have e := h (16 - i) (by omega) (by omega)
  have : 16 - (16 - i) = i := by omega
  simpa [bitAt, this] using e

/-- The parity of a sum is the sum of the parities (R8). -/
theorem parity_xor (a b : Block) : parity (a ^^^ b) = xor (parity a) (parity b) := by
  simp only [parity, BitVec.getLsbD_xor]
  have fold : ∀ (l : List Nat) (x y : Bool),
      l.foldl (fun acc i => xor acc (xor (a.getLsbD i) (b.getLsbD i))) (xor x y) =
        xor (l.foldl (fun acc i => xor acc (a.getLsbD i)) x) (l.foldl (fun acc i => xor acc (b.getLsbD i)) y) := by
    intro l
    induction l with
    | nil => simp
    | cons c l ih =>
      intro x y
      simp only [List.foldl_cons]
      rw [← ih]
      congr 1
      cases x <;> cases y <;> cases a.getLsbD c <;> cases b.getLsbD c <;> rfl
  exact fold _ false false

/-- The parity of a block is whether an odd number of its bits are 1 (R8). -/
theorem parity_eq_odd (v : Block) :
    parity v = decide ((List.range 16).countP (fun n => v.getLsbD n) % 2 = 1) := by
  have fold : ∀ (l : List Nat) (a : Bool),
      l.foldl (fun acc i => xor acc (v.getLsbD i)) a =
        xor a (decide (l.countP (fun n => v.getLsbD n) % 2 = 1)) := by
    intro l
    induction l with
    | nil => simp
    | cons x l ih =>
      intro a
      rw [List.foldl_cons, ih, List.countP_cons]
      cases v.getLsbD x
      · simp
      · rcases Nat.mod_two_eq_zero_or_one (l.countP fun n => v.getLsbD n) with h | h <;> simp [Nat.add_mod, h]
  rw [parity, fold]
  simp

/-- A loop that stores by key leaves a place no key names (R232's two loops). -/
theorem foldl_set_other {α β : Type} {n : Nat} (key : β → Nat) (val : β → α) {k : Nat} (l : List β)
    (acc : Vector α n) (h : ∀ x ∈ l, key x ≠ k) :
    (l.foldl (fun v x => v.setIfInBounds (key x) (val x)) acc)[k]? = acc[k]? := by
  induction l generalizing acc with
  | nil => rfl
  | cons a l ih =>
    rw [List.foldl_cons, ih _ fun x hx => h x (List.mem_cons_of_mem _ hx),
      Vector.getElem?_setIfInBounds_ne (h a (by simp))]

/-- A loop that stores by distinct keys leaves at each key what it stored there (R232's two loops). -/
theorem foldl_set_at {α β : Type} {n : Nat} (key : β → Nat) (val : β → α) (l : List β) (acc : Vector α n)
    (hn : (l.map key).Nodup) {x : β} (hx : x ∈ l) (hk : key x < n) :
    (l.foldl (fun v x => v.setIfInBounds (key x) (val x)) acc)[key x]? = some (val x) := by
  induction l generalizing acc with
  | nil => simp at hx
  | cons a l ih =>
    rw [List.map_cons, List.nodup_cons] at hn
    rw [List.foldl_cons]
    rcases List.mem_cons.1 hx with rfl | hx'
    · rw [foldl_set_other _ _ _ _ fun y hy e => hn.1 (List.mem_map.2 ⟨y, hy, e⟩),
        Vector.getElem?_setIfInBounds_self_of_lt hk]
    · exact ih _ hn.2 hx'

end Sys2Proof.Machine
end

