-- ==== Sys2Proof/Laws/PerInstr.lean ====
section
/-! SUPPORT. Laws stated for all commands as syntax, one lemma a constructor. -/

namespace Sys2Proof.Laws.EncodedFields

/-- Where the fields of a command stand in its word (R80, R82): OPC is its opcode, IDX its key index, RSV is 0; IDX is 0
for every command without a key index; and the opcode map leads back to the command. -/
def Statement (i : Instr) : Prop :=
  opcField (encode i) = i.opcode ∧ idxField (encode i) = i.index ∧ rsvField (encode i) = 0 ∧
    (i.usesIndex = false → i.index = 0) ∧ ofOpcode i.opcode i.index = some i

theorem nop : Statement .nop := by unfold Statement; decide

theorem ldst : Statement .ldst := by unfold Statement; decide

theorem xori : Statement .xori := by unfold Statement; decide

theorem xork (k : BitVec 4) : Statement (.xork k) := by unfold Statement; revert k; decide

theorem sub : Statement .sub := by unfold Statement; decide

theorem isub : Statement .isub := by unfold Statement; decide

theorem perm : Statement .perm := by unfold Statement; decide

theorem iperm : Statement .iperm := by unfold Statement; decide

theorem getbit : Statement .getbit := by unfold Statement; decide

theorem ldkey (k : BitVec 4) : Statement (.ldkey k) := by unfold Statement; revert k; decide

theorem clrkeys : Statement .clrkeys := by unfold Statement; decide

theorem enc : Statement .enc := by unfold Statement; decide

theorem dec : Statement .dec := by unfold Statement; decide

theorem ldgk : Statement .ldgk := by unfold Statement; decide

theorem ldrel : Statement .ldrel := by unfold Statement; decide

theorem partialInv : Statement .partialInv := by unfold Statement; decide

theorem check : Statement .check := by unfold Statement; decide

theorem accum : Statement .accum := by unfold Statement; decide

theorem clrcnt : Statement .clrcnt := by unfold Statement; decide

theorem bias : Statement .bias := by unfold Statement; decide

theorem clrerr : Statement .clrerr := by unfold Statement; decide

end Sys2Proof.Laws.EncodedFields
end

