-- ==== Sys2Proof/Tests/Slice0.lean ====
section
/-! SUPPORT. The model's own tests: expected values from the spec's rules and from spec/95_test_vectors.md; and, for the
statements, states that meet their hypotheses. -/

namespace Sys2Proof.Tests

open Sys2Proof.Machine

/-! ## Helpers -/

/-- The next state of an outcome, if it is one. -/
def next? (o : Host.Outcome State Fault Refusal) : Option State :=
  match o with
  | .next t => some t
  | .fault _ => none
  | .refused _ => none

/-- One field of the state a command leaves. -/
def after {α : Type} (i : Instr) (s : State) (f : State → α) : Option α := (next? (exec i s)).map f

/-- The code and opcode a command records when its word is in flight, with the given argument. -/
def recorded (w arg : Word) (s : State) : Option (BitVec 3 × Opcode) :=
  (next? (completeCommand { s with pending := true, lcmd := w, larg := arg })).map fun t => (t.ecode, t.eop)

/-- Reset state with keys 1..5, the guess 5 and the relation of R164's example. -/
def loaded : State :=
  { State.reset with
    key := #v[1, 2, 3, 4, 5], kvalid := Vector.replicate 5 true, gkey := 5, gvalid := true
    pmask := 0x0B00, umask := 0x0505, rvalid := true }

/-- The tables of program L3-5: SBOX is not a bijection. -/
def badConfig : Config :=
  { sbox := #v[0xE, 0xE, 0xD, 0x1, 0x2, 0xF, 0xB, 0x8, 0x3, 0xA, 0x6, 0xC, 0x5, 0x9, 0x0, 0x7], perm := defaultPerm }

/-- A block built with those tables, its error record cleared. -/
def bad : State := clearErrorRecord (State.resetWith badConfig)

/-- A host's coming actions, from a state. -/
def withEvents (s : State) (es : List Event) : State := { s with schedule := es }

/-! ## Well-formedness (R81, R82): the ill-formed commands, each refused -/

theorem test_wf_refuses_xork_zero : Instr.wf (.xork 0) = false := by decide

theorem test_wf_refuses_xork_above : ∀ k ∈ [6#4, 7#4, 8#4, 15#4], Instr.wf (.xork k) = false := by decide

theorem test_wf_refuses_ldkey_zero : Instr.wf (.ldkey 0) = false := by decide

theorem test_wf_refuses_ldkey_above : ∀ k ∈ [6#4, 7#4, 8#4, 15#4], Instr.wf (.ldkey k) = false := by decide

theorem test_wf_accepts_bounds : ∀ i ∈ [Instr.xork 1, .xork 5, .ldkey 1, .ldkey 5, .nop, .clrerr], i.wf = true := by decide

/-! ## Decoding: R87's words, by the fields of R80 -/

theorem test_decode_nop : decode 0x00000000#32 = .ok .nop := by decide
theorem test_decode_ldst : decode 0x00000001#32 = .ok .ldst := by decide
theorem test_decode_xori : decode 0x00000002#32 = .ok .xori := by decide
theorem test_decode_xork : decode 0x00000503#32 = .ok (.xork 5) := by decide
theorem test_decode_sub : decode 0x00000004#32 = .ok .sub := by decide
theorem test_decode_isub : decode 0x00000005#32 = .ok .isub := by decide
theorem test_decode_perm : decode 0x00000006#32 = .ok .perm := by decide
theorem test_decode_iperm : decode 0x00000007#32 = .ok .iperm := by decide
theorem test_decode_getbit : decode 0x00000008#32 = .ok .getbit := by decide
theorem test_decode_ldkey : decode 0x00000110#32 = .ok (.ldkey 1) := by decide
theorem test_decode_clrkeys : decode 0x00000011#32 = .ok .clrkeys := by decide
theorem test_decode_enc : decode 0x00000012#32 = .ok .enc := by decide
theorem test_decode_dec : decode 0x00000013#32 = .ok .dec := by decide
theorem test_decode_ldgk : decode 0x00000020#32 = .ok .ldgk := by decide
theorem test_decode_ldrel : decode 0x00000021#32 = .ok .ldrel := by decide
theorem test_decode_partial : decode 0x00000022#32 = .ok .partialInv := by decide
theorem test_decode_check : decode 0x00000023#32 = .ok .check := by decide
theorem test_decode_accum : decode 0x00000024#32 = .ok .accum := by decide
theorem test_decode_clrcnt : decode 0x00000025#32 = .ok .clrcnt := by decide
theorem test_decode_bias : decode 0x00000026#32 = .ok .bias := by decide
theorem test_decode_clrerr : decode 0x00000030#32 = .ok .clrerr := by decide

theorem test_decode_refuses_unknown :
    [0x09#32, 0x0F#32, 0x14#32, 0x1F#32, 0x27#32, 0x2F#32, 0x31#32, 0xFF#32].map decode
      = List.replicate 8 (.error .unknownOpcode) := by decide

theorem test_decode_refuses_reserved :
    [0x00001000#32, 0x80000003#32].map decode = List.replicate 2 (.error .reservedBits) := by decide

theorem test_decode_refuses_stray_index :
    [0x00000104#32, 0x00000130#32, 0x00000800#32].map decode = List.replicate 3 (.error .strayIndex) := by decide

theorem test_encode_ldkey_five : encode (.ldkey 5) = 0x00000510#32 := by decide

/-! ## Commands, one step each -/

-- R190.
theorem test_nop : after .nop { loaded with pending := true } (fun t => decide (t = loaded)) = some true := by decide

-- R104's example and its error.
theorem test_ldst : after .ldst { State.reset with larg := 0x0000ABCD } (·.st) = some 0xABCD := by decide
theorem test_ldst_range : recorded 0x00000001 0xFFFFFFFF State.reset = some (1, 0x01) := by decide

-- R105's example.
theorem test_xori : after .xori { State.reset with st := 0xF000, larg := 0x0FFF } (·.st) = some 0xFFFF := by decide
theorem test_xori_range : recorded 0x00000002 0x00010000 State.reset = some (1, 0x02) := by decide

-- R106's example, and the table of 95_test_vectors.md 2.6.
theorem test_xork : after (.xork 1) { loaded with st := 0x1234 } (·.st) = some 0x1235 := by decide
theorem test_xork_errors :
    [0x00000203#32, 0x00000003#32, 0x00000603#32].map (fun w => recorded w 0 State.reset)
      = List.replicate 3 (some (3, 0x03)) := by decide

-- R107's example and a corner case.
theorem test_sub : after .sub { State.reset with st := 0xABCD } (·.st) = some 0x6C59 := by decide
theorem test_sub_ones : after .sub { State.reset with st := 0xFFFF } (·.st) = some 0x7777 := by decide

-- R108's example and a corner case.
theorem test_isub : after .isub { State.reset with st := 0x6C59 } (·.st) = some 0xABCD := by decide
theorem test_isub_ones : after .isub { State.reset with st := 0xFFFF } (·.st) = some 0x5555 := by decide

-- R109's example; the round of program L3-1.
theorem test_perm : after .perm { State.reset with st := 0xF000 } (·.st) = some 0x8888 := by decide
theorem test_perm_round : after .perm { State.reset with st := 0x4D1F } (·.st) = some 0x5D17 := by decide

-- R110's example.
theorem test_iperm : after .iperm { State.reset with st := 0x8888 } (·.st) = some 0xF000 := by decide
theorem test_iperm_table : after .iperm { bad with st := 0x8888 } (·.ecode) = some 4 := by decide

-- R111's example, 0xAAAA at positions 1 and 16.
theorem test_getbit_first : after .getbit { State.reset with st := 0xAAAA, larg := 1 } (·.res) = some true := by decide
theorem test_getbit_errors :
    [0x00000000#32, 0x00000011#32, 0x00010000#32, 0xFFFFFFFF#32].map (fun a => recorded 0x00000008 a State.reset)
      = List.replicate 4 (some (2, 0x08)) := by decide

-- R140's example.
theorem test_ldkey : after (.ldkey 5) { State.reset with larg := 5 } (fun t => (t.key[4], (statusWord t).getLsbD 12))
    = some (5, true) := by decide
theorem test_ldkey_errors : recorded 0x00000610 0x00010000 State.reset = some (3, 0x10) ∧
    recorded 0x00000110 0x00010000 State.reset = some (1, 0x10) := by decide

-- R141's example.
theorem test_clrkeys : after .clrkeys loaded (fun t => (statusWord t).extractLsb' 8 5) = some 0 := by decide

-- R142's and R143's examples.
theorem test_enc : after .enc { loaded with st := 0x1234 } (·.st) = some 0x02D0 := by decide +kernel
theorem test_enc_without_keys : after .enc { State.reset with lcmd := 0x12, pending := true } statusWord
    = some 0x12008034 := by decide
theorem test_dec : after .dec { loaded with st := 0x02D0 } (·.st) = some 0x1234 := by decide +kernel
theorem test_dec_missing_key : recorded 0x00000013 0 { loaded with kvalid := #v[true, true, true, true, false] }
    = some (3, 0x13) := by decide

-- R163's and R164's examples.
theorem test_ldgk : after .ldgk { State.reset with larg := 5 } (fun t => (t.gkey, t.gvalid)) = some (5, true) := by decide
theorem test_ldgk_range : recorded 0x00000020 0x00010000 State.reset = some (1, 0x20) := by decide
theorem test_ldrel : after .ldrel { State.reset with larg := 0x0B000505 } (fun t => (portValue .rel t, t.rvalid))
    = some (0x0B000505, true) := by decide

-- R165's example; the order of its errors.
theorem test_partial : after .partialInv { loaded with larg := 0x02D0 } (·.st) = some 0xE42C := by decide
theorem test_partial_errors : recorded 0x00000022 0xFFFFFFFF State.reset = some (3, 0x22) ∧
    recorded 0x00000022 0x00010000 loaded = some (1, 0x22) := by decide

-- R166's example, and the second pair of 95_test_vectors.md 2.4, whose relation does not hold.
theorem test_check : after .check { loaded with larg := 0x0000F581 } (·.res) = some true := by decide +kernel
theorem test_check_false : after .check { loaded with res := true, larg := 0x0001E921 } (·.res) = some false := by decide +kernel

-- R167's example; the counter bound.
theorem test_accum : after .accum { loaded with larg := 0x0000F581, bvalid := true } (fun t =>
    (t.res, t.matchCnt, t.total, t.bvalid)) = some (true, 1, 1, false) := by decide +kernel
theorem test_accum_full : after .accum { loaded with total := 0x7FFFFFFF, lcmd := 0x24 } (fun t =>
    (t.ecode, t.eop, t.total)) = some (3, 0x24, 0x7FFFFFFF) := by decide

-- R168's example.
theorem test_clrcnt : after .clrcnt { State.reset with matchCnt := 4, total := 8 } (fun t => (t.matchCnt, t.total))
    = some (0, 0) := by decide

-- R169's example and its error.
theorem test_bias : after .bias { State.reset with matchCnt := 34816, total := 65536 } (fun t => (t.bnum, t.bden, t.bvalid))
    = some (4096, 131072, true) := by decide
theorem test_bias_empty : recorded 0x00000026 0 State.reset = some (3, 0x26) := by decide

-- R191's example.
theorem test_clrerr : after .clrerr { State.reset with err := true, ecode := 1, eop := 0x10 } statusWord
    = some 0x00008000 := by decide
theorem test_clrerr_malformed : recorded 0x00000130 0 State.reset = some (5, 0x30) := by decide

/-! ## Reset, the port and the step -/

theorem test_reset_status : statusWord State.reset = 0x00008000 := by decide

theorem test_reset_status_bad_table : statusWord (State.resetWith badConfig) = 0xFF000044 := by decide

-- Program L3-4, rows 6a and 6b: a CMD write while busy.
theorem test_overrun : statusWord (portWrite .cmd 0 (portWrite .cmd 0x110 State.reset)) = 0x00008065 := by decide

theorem test_bus_offset : busRegister 0x3C 4 = some .ident ∧ busRegister 0x3C 2 = none ∧ busRegister 0x3E 4 = none ∧
    busRegister 0x40 4 = none := by decide

theorem test_placed_word_runs : (next? (step (State.reset.withFetchWord 32 0x00000004))).map (·.st)
    = some 0xEEEE := by decide

theorem test_placed_illegal_word_runs : (next? (step (State.reset.withFetchWord 32 0x00000009))).map
    (fun t => (t.ecode, t.eop)) = some (5, 0x09) := by decide

/-! ## Witnesses: states and operands that meet the hypotheses of each statement -/

/-- The command word `w` in flight with the argument `a`, after reset. -/
def inFlight (w a : Word) : State := { State.reset with pending := true, lcmd := w, larg := a }

/-- Reset asserted, with a host's coming actions. -/
def held (es : List Event) : State := { State.reset with inReset := true, schedule := es }

theorem reset_tables : TablesConsistent State.reset := by
  refine ⟨by decide, fun _ => ⟨⟨by decide, by decide⟩, ?_⟩⟩
  intro p h₁ h₂
  interval_cases p <;> decide

theorem loaded_tables : TablesConsistent loaded := reset_tables

theorem reset_inv : State.reset.Inv where
  record := ⟨by decide, fun _ => by decide⟩
  counters := ⟨by decide, by decide⟩
  bias := fun h => absurd h (by decide)
  tables := reset_tables
  unloaded := ⟨by decide, fun _ => by decide, fun _ => by decide⟩
  reset := fun h => absurd h (by decide)

theorem witness_DecodeAndEncodeAgree : decode 0x00000503#32 = .ok (.xork 5) ∧ decode 0x00000F03#32 = .ok (.xork 15) := by
  decide

/-- R82's opcode column, as the statement has it. -/
abbrev listedOpcode (w : Word) : Prop :=
  w.toNat % 256 ≤ 0x08 ∨ (0x10 ≤ w.toNat % 256 ∧ w.toNat % 256 ≤ 0x13) ∨
    (0x20 ≤ w.toNat % 256 ∧ w.toNat % 256 ≤ 0x26) ∨ w.toNat % 256 = 0x30

/-- The two opcodes with an index, as the statement has them. -/
abbrev indexedOpcode (w : Word) : Prop := w.toNat % 256 = 0x03 ∨ w.toNat % 256 = 0x10

theorem witness_DecodingChecks_opcode : ¬listedOpcode 0x09 ∧ ¬listedOpcode 0x0F ∧ ¬listedOpcode 0x14 ∧
    ¬listedOpcode 0x1F ∧ ¬listedOpcode 0x27 ∧ ¬listedOpcode 0x2F ∧ ¬listedOpcode 0x31 ∧ ¬listedOpcode 0xFF := by decide

theorem witness_DecodingChecks_reserved : listedOpcode 0x00001000 ∧ (0x00001000#32).toNat / 4096 ≠ 0 := by decide

theorem witness_DecodingChecks_strayIndex : listedOpcode 0x00000104 ∧ (0x00000104#32).toNat / 4096 = 0 ∧
    ¬indexedOpcode 0x00000104 ∧ (0x00000104#32).toNat / 256 % 16 ≠ 0 := by decide

theorem witness_DecodingChecks_keyIndex : indexedOpcode 0x00000003 ∧ (0x00000003#32).toNat / 256 % 16 < 1 ∧
    indexedOpcode 0x00000610 ∧ 5 < (0x00000610#32).toNat / 256 % 16 ∧ (0x00000610#32).toNat / 4096 = 0 := by decide

theorem witness_DecodingChecks_legal : listedOpcode 0x00000503 ∧ (0x00000503#32).toNat / 4096 = 0 ∧
    (0x00000503#32).toNat / 256 % 16 = 5 ∧ listedOpcode 0x00000030 ∧ ¬indexedOpcode 0x00000030 ∧
    (0x00000030#32).toNat / 256 % 16 = 0 := by decide

theorem witness_StepRunsTheDecodedCommand : (inFlight 0x12 0).pending = true ∧ (inFlight 0x12 0).inReset = false ∧
    decode (inFlight 0x12 0).lcmd = .ok .enc ∧ (inFlight 0x12 0).schedule = [] ∧
    (withEvents (inFlight 0x12 0) [.core, .read .st]).schedule = [.core, .read .st] := by decide

theorem witness_PlacedWordRunsNext : decodeTableWord 32 0x00000503 = some (.xork 5) ∧
    decodeTableWord 32 0x00000000 = some .nop := by decide

theorem witness_IdleBlockDoesNothing : State.reset.pending = false ∧ State.reset.schedule = [] ∧
    (withEvents State.reset [.core]).schedule = [.core] := by decide

theorem witness_FirstErrorIsRecorded : State.reset.err = false ∧ (State.resetWith badConfig).err = true := by decide

theorem witness_FirstApplicableErrorIsReported : decode (inFlight 0x09 0).lcmd = .error .unknownOpcode ∧
    reportedError (.ldkey 6) (inFlight 0x610 0x10000) = some .configuration ∧
    reportedError .getbit (inFlight 0x08 17) = some .index ∧ reportedError .getbit (inFlight 0x08 16) = none := by decide

theorem witness_ErrorsArePrecise : decode (inFlight 0x1000 0).lcmd = .error .reservedBits ∧
    decode (inFlight 0x12 0).lcmd = .ok .enc ∧ reportedError .enc (inFlight 0x12 0) = some .configuration := by decide

theorem witness_ErrorsDoNotBlockLaterCommands :
    (∃ t, completeCommand (inFlight 0x04 0) = .next t) ∧ State.reset.pending = false :=
  ⟨completeCommand_answers_next _, by decide⟩

theorem witness_FirstErrorStaysUntilCleared : (State.resetWith badConfig).err = true ∧
    ∃ t, step (withEvents (State.resetWith badConfig) [.write .cmd 0x04]) = .next t := ⟨by decide, _, rfl⟩

theorem witness_FirstErrorStays_clrerr : ({ inFlight 0x30 0 with err := true } : State).err = true ∧
    decode (inFlight 0x30 0).lcmd = .ok .clrerr ∧
    ∃ t, step { inFlight 0x30 0 with err := true } = .next t := ⟨by decide, by decide, _, rfl⟩

theorem witness_NopOnlyCompletes : (inFlight 0x00000100 0).lcmd.toNat % 256 = 0 ∧ (inFlight 0x00000100 0).lcmd ≠ 0 ∧
    (inFlight 0x80000000 0).lcmd.toNat % 256 = 0 ∧ (inFlight 0x80000000 0).lcmd ≠ 0 := by decide

theorem witness_NopOnly_inert : ∀ s : State, exec .nop s = .next { s with pending := false } := fun _ => rfl

/-- LdstLoadsTheBlock, XoriAddsTheBlock, LdgkLoadsTheGuess: both ranges of the form `blk`, at their bounds. -/
theorem witness_blk : (inFlight 0x01 0xFFFF).larg.toNat < 65536 ∧ 65536 ≤ (inFlight 0x01 0x10000).larg.toNat ∧
    65536 ≤ (inFlight 0x01 0xFFFFFFFF).larg.toNat := by decide

theorem witness_XorkAddsTheRoundKey : (0#4).toNat < 1 ∧ 5 < (6#4).toNat ∧ (1#4).toNat = (0 : Fin 5).val + 1 ∧
    (5#4).toNat = (4 : Fin 5).val + 1 ∧ State.reset.kvalid[(0 : Fin 5)] = false ∧ loaded.kvalid[(4 : Fin 5)] = true := by
  decide

theorem witness_SubSubstitutesEachNibble : bad.tablesOk = false ∧ State.reset.tablesOk = true ∧
    State.reset.sbox = defaultSbox ∧ State.reset.st = 0x0000 ∧ ({ State.reset with st := 0xABCD } : State).st = 0xABCD := by
  decide

theorem witness_IsubSubstitutesInversely : State.reset.tablesOk = true ∧ State.reset.sinv = invertSbox defaultSbox ∧
    TablesConsistent State.reset := ⟨by decide, by decide, reset_tables⟩

theorem witness_PermMovesEachBit : bad.tablesOk = false ∧ State.reset.tablesOk = true ∧ State.reset.perm = defaultPerm ∧
    bijectivePerm State.reset.perm = true ∧ ({ State.reset with st := 0xFFFF } : State).st = 0xFFFF ∧
    ({ State.reset with st := 0x8421 } : State).st = 0x8421 := by decide

theorem witness_IpermMovesEachBitBack : State.reset.tablesOk = true ∧ State.reset.pinv = invertPerm defaultPerm ∧
    State.reset.perm = defaultPerm ∧ TablesConsistent State.reset := ⟨by decide, by decide, by decide, reset_tables⟩

theorem witness_GetbitReadsThePosition : 1 ≤ (inFlight 8 1).larg.toNat ∧ (inFlight 8 16).larg.toNat ≤ 16 ∧
    (inFlight 8 0).larg.toNat < 1 ∧ 16 < (inFlight 8 17).larg.toNat := by decide

theorem witness_LdkeyLoadsOneKey : (0#4).toNat < 1 ∧ 5 < (6#4).toNat ∧ (1#4).toNat = (0 : Fin 5).val + 1 ∧
    (5#4).toNat = (4 : Fin 5).val + 1 ∧ (inFlight 0x510 0xFFFF).larg.toNat < 65536 ∧
    65536 ≤ (inFlight 0x510 0x10000).larg.toNat ∧ (3 : Fin 5) ≠ 4 := by decide

theorem witness_ClrkeysClearsTheKeys : loaded.tablesOk = true ∧ UnloadedZero State.reset ∧
    ∀ i : Fin 5, State.reset.kvalid[i] = false := ⟨by decide, reset_inv.unloaded, by decide⟩

/-- EncRunsTheFourRounds, DecUndoesTheFourRounds: no tables; tables and a key missing, here the last; all five keys. -/
theorem witness_cipher : bad.tablesOk = false ∧
    (∃ i : Fin 5, ({ loaded with kvalid := #v[true, true, true, true, false] } : State).kvalid[i] = false) ∧
    loaded.tablesOk = true ∧ ∀ i : Fin 5, loaded.kvalid[i] = true := by decide

theorem witness_EncAndDecAreInverse : loaded.tablesOk = true ∧ TablesConsistent loaded ∧
    ∀ i : Fin 5, loaded.kvalid[i] = true := ⟨by decide, loaded_tables, by decide⟩

theorem witness_LayersObeyTheirLaws : State.reset.tablesOk = true ∧ TablesConsistent State.reset :=
  ⟨by decide, reset_tables⟩

theorem witness_LdrelLoadsTheRelation : (inFlight 0x21 0x0B000505).larg = 0x0B00#16 ++ 0x0505#16 := by decide

theorem witness_PartialUndoesTheLastLayer : bad.tablesOk = false ∧ State.reset.tablesOk = true ∧
    State.reset.gvalid = false ∧ loaded.gvalid = true ∧ loaded.sinv = invertSbox defaultSbox ∧
    ({ loaded with larg := 5 } : State).larg.setWidth 16 = loaded.gkey ∧
    ({ loaded with larg := 0xFFFF } : State).larg.toNat < 65536 ∧
    65536 ≤ ({ loaded with larg := 0x10000 } : State).larg.toNat := by decide

/-- CHECK and ACCUM: no tables; no guess; no relation; all loaded; the empty relation. -/
theorem witness_CheckEvaluatesTheRelation : ({ loaded with larg := 0x0000F581 } : State).larg = 0x0000#16 ++ 0xF581#16 ∧
    bad.tablesOk = false ∧ ({ loaded with gvalid := false } : State).gvalid = false ∧
    ({ loaded with rvalid := false } : State).rvalid = false ∧
    loaded.tablesOk = true ∧ loaded.gvalid = true ∧ loaded.rvalid = true ∧
    ({ loaded with pmask := 0, umask := 0 } : State).pmask = 0 := by decide

theorem witness_PartialRecoversRoundFourInput : loaded.tablesOk = true ∧ TablesConsistent loaded ∧
    (∀ i : Fin 5, loaded.kvalid[i] = true) ∧ loaded.gvalid = true ∧ loaded.gkey = loaded.key[4] :=
  ⟨by decide, loaded_tables, by decide, by decide, by decide⟩

theorem witness_AccumCountsThePair : ({ loaded with total := 0x7FFFFFFF } : State).total = 0x7FFFFFFF#32 ∧
    loaded.tablesOk = true ∧ loaded.gvalid = true ∧ loaded.rvalid = true ∧
    ({ loaded with matchCnt := 0x7FFFFFFE, total := 0x7FFFFFFE } : State).matchCnt.toNat ≤ 0x7FFFFFFE ∧
    ({ loaded with matchCnt := 0x7FFFFFFE, total := 0x7FFFFFFE } : State).total.toNat < 0x7FFFFFFF := by decide

/-- BiasIsTheExactFraction, BiasIsTheDeviationFromOneHalf: empty counters; full counters, within the invariant. -/
theorem witness_bias : State.reset.total = 0 ∧
    ({ State.reset with matchCnt := 0x7FFFFFFF, total := 0x7FFFFFFF } : State).total ≠ 0 ∧
    CountersBounded { State.reset with matchCnt := 0x7FFFFFFF, total := 0x7FFFFFFF } :=
  ⟨by decide, by decide, by decide, by decide⟩

theorem witness_GuessCountsOnlyInMaskedNibbles :
    (∀ n, n < 4 → loaded.umask.extractLsb' (4 * n) 4 ≠ 0 →
      (0xF0F5#16).extractLsb' (4 * n) 4 = loaded.gkey.extractLsb' (4 * n) 4) ∧
    (∃ t, exec .check loaded = .next t) ∧ ∃ t, exec .accum loaded = .next t :=
  ⟨by decide, exec_answers_next _ _, exec_answers_next _ _⟩

theorem witness_CorpusIsCountedExactly : loaded.tablesOk = true ∧ loaded.gvalid = true ∧ loaded.rvalid = true ∧
    loaded.total = 0 ∧ loaded.matchCnt = 0 ∧ [(0x0000#16, 0xF581#16), (0x0001#16, 0xE921#16)] ≠ [] ∧
    [(0x0000#16, 0xF581#16), (0x0001#16, 0xE921#16)].length ≤ 0x7FFFFFFF := by decide

theorem witness_AttackIgnoresTheRoundKeys : ∃ t, exec .accum loaded = .next t := exec_answers_next _ _

theorem witness_ClrerrEmptiesTheRecord : ErrorRecordLegal State.reset ∧ State.reset.err = false ∧
    (inFlight 0x130 0).lcmd.toNat % 256 = 0x30 ∧ (inFlight 0x130 0).lcmd ≠ 0x30#32 ∧
    (inFlight 0x30 0).pending = true ∧ (inFlight 0x30 0).lcmd = 0x30#32 :=
  ⟨reset_inv.record, by decide, by decide, by decide, by decide, by decide⟩

theorem witness_OnlyNamedCommandsWrite : (next? (exec .sub State.reset)).map (fun t => decide (t.st ≠ State.reset.st))
    = some true ∧ (next? (exec .clrkeys loaded)).map (fun t => decide (t.kvalid ≠ loaded.kvalid)) = some true := by
  decide

theorem witness_ReadReturnsTheRegister : (withEvents loaded [.read .key5]).schedule = [.read .key5] ∧
    loaded.inReset = false ∧ PortReg.key5.index.toNat = (4 : Fin 5).val + 4 ∧ (held [.read .st]).inReset = true ∧
    PortReg.cmd.index = 0 ∧ PortReg.ident.index = 15 := by decide

theorem witness_ReadsAndIgnoredWritesChangeNothing :
    (withEvents loaded [.write .status 1]).schedule = [.write .status 1] ∧ 2 ≤ PortReg.status.index.toNat ∧
    (withEvents loaded [.read .status, .read .status, .core]).schedule = [.read .status, .read .status, .core] := by
  decide

theorem witness_CommandIsAcceptedOrDropped : State.reset.inReset = false ∧ State.reset.pending = false ∧
    (withEvents State.reset [.write .cmd 0x110]).schedule = [.write .cmd 0x110] ∧ (inFlight 0x110 5).pending = true ∧
    (withEvents (inFlight 0x110 5) [.write .arg 7]).schedule = [.write .arg 7] := by decide

theorem witness_ReadsWhileBusyReturnOldValues : State.reset.pending = false ∧ State.reset.inReset = false ∧
    (∀ e ∈ [Event.read .st, .write .arg 7], (∃ r, e = .read r) ∨ ∃ v, e = .write .arg v) ∧
    (withEvents State.reset [.write .cmd 0x04, .read .st, .write .arg 7, .core]).schedule
      = .write .cmd 0x04 :: ([.read .st, .write .arg 7] ++ [.core]) := by
  refine ⟨by decide, by decide, ?_, rfl⟩
  simp

theorem witness_CommandInFlightIsUndisturbed : (∃ t, completeCommand (inFlight 0x01 5) = .next t) ∧
    (inFlight 0x01 5).pending = true := ⟨completeCommand_answers_next _, by decide⟩

theorem witness_PseudoInstructionRunsItsCommand : State.reset.pending = false ∧ State.reset.inReset = false ∧
    (withEvents State.reset (scheduleOf (pseudoArg 1 .ldst 0xABCD) ++ [.read .st])).schedule
      = scheduleOf (pseudoArg 1 .ldst 0xABCD) ++ [.read .st] := by decide

theorem witness_BusAccessIsAWholeRegister :
    (withEvents State.reset [.busRead 0x3C 4]).schedule = [.busRead 0x3C 4] ∧ 0x3C = 4 * PortReg.ident.index.toNat ∧
    ¬((4 : Nat) = 4 ∧ 0x40 % 4 = 0 ∧ 0x40 < 64) ∧ ¬((2 : Nat) = 4 ∧ 0 % 4 = 0 ∧ 0 < 64) := by decide

theorem witness_ResetValues : (State.resetWith defaultConfig).tablesOk = true ∧
    (State.resetWith badConfig).tablesOk = false := by decide

theorem witness_SelfCheckMeansBijective : Instr.sub ∈ [Instr.sub, .isub, .perm] ∧ bad.tablesOk = false ∧
    selfCheck badConfig.sbox badConfig.perm = false ∧ selfCheck defaultSbox defaultPerm = true := by decide

theorem witness_ResetComputesTheInverseTables : selfCheck defaultSbox defaultPerm = true := by decide

theorem witness_ResetAbandonsTheCommand : (withEvents (inFlight 4 0) [.resetAssert]).schedule = [.resetAssert] ∧
    (held [.write .arg 5]).inReset = true ∧ (held [.write .arg 5]).schedule = [.write .arg 5] ∧
    (held [.resetRelease]).schedule = [.resetRelease] := by decide

/-- TablesAreReadOnly, StepKeepsTheStateLegal: a reset release, from a legal state. -/
theorem witness_step_release : (held [.resetRelease]).Inv ∧ ∃ t, step (held [.resetRelease]) = .next t :=
  ⟨⟨reset_inv.1, reset_inv.2, reset_inv.3, reset_inv.4, reset_inv.5, fun _ => rfl⟩, _, rfl⟩

/-- StepKeepsTheStateLegal: a command that counts, from a legal state. -/
theorem witness_step_accum : ({ loaded with pending := true, lcmd := 0x24, larg := 0x0000F581 } : State).Inv ∧
    ∃ t, step { loaded with pending := true, lcmd := 0x24, larg := 0x0000F581 } = .next t :=
  ⟨⟨reset_inv.1, reset_inv.2, reset_inv.3, reset_inv.4,
    ⟨by decide, fun h => absurd h (by decide), fun h => absurd h (by decide)⟩, fun h => absurd h (by decide)⟩,
    by rw [step_empty rfl]; exact coreTurn_answers_next _⟩

theorem witness_RegistersWithoutValueAreNeverRead : State.reset.pending = false ∧
    (∃ t, step (withEvents State.reset [.write .cmd 4]) = .next t) ∧ (∃ t, step (inFlight 0x12 0) = .next t) ∧
    bad.tablesOk = false ∧ ∃ t, exec .isub bad = .next t :=
  ⟨by decide, ⟨_, rfl⟩, by rw [step_empty rfl]; exact coreTurn_answers_next _, by decide, exec_answers_next _ _⟩

theorem witness_InstancesShareNothing : (∃ sys, systemStep 1 (systemReset 2) = .next sys) ∧ (0 : Nat) ≠ 1 ∧
    (systemReset 2)[1]? = some State.reset := ⟨⟨_, rfl⟩, by decide, by decide⟩

/-- Two parts of a corpus, counted by instances whose states differ in ST. -/
def twoRuns : List (State × List (Block × Block)) :=
  [(loaded, [(0x0000#16, 0xF581#16)]), ({ loaded with st := 0x1234 }, [(0x0001#16, 0xE921#16)])]

theorem witness_CountersReduceToTheCorpusBias :
    (∀ r ∈ twoRuns, r.1.tablesOk = true ∧ r.1.gvalid = true ∧ r.1.rvalid = true ∧ r.1.total = 0 ∧ r.1.matchCnt = 0 ∧
      r.1.gkey = 5 ∧ r.1.pmask = 0x0B00 ∧ r.1.umask = 0x0505 ∧ r.1.sinv = loaded.sinv ∧ r.2.length ≤ 0x7FFFFFFF) ∧
    ∃ t u, List.Forall₂ (fun r x => accumulateCorpus r.2 r.1 = .next x) twoRuns [t, u] := by
  refine ⟨?_, ?_⟩
  · simp only [twoRuns, List.forall_mem_cons]
    decide
  · obtain ⟨t, ht⟩ := exec_answers_next .accum { loaded with larg := 0x0000#16 ++ 0xF581#16 }
    obtain ⟨u, hu⟩ := exec_answers_next .accum { loaded with st := 0x1234, larg := 0x0001#16 ++ 0xE921#16 }
    refine ⟨t, u, .cons ?_ (.cons ?_ .nil)⟩ <;> simp only [accumulateCorpus, ht, hu]

theorem witness_StateMachineTakesTheRoundValues : loaded.tablesOk = true ∧ ∀ i : Fin 5, loaded.kvalid[i] = true := by
  decide

end Sys2Proof.Tests
end

section
/-! PROOFS. Which error a command reports (spec/60_exceptions.md R201, R203), and the two ends a command can have: every
later proof about all commands goes through these. -/

namespace Sys2Proof.Machine

/-- Recording an error as one update, so that it commutes with an update of other registers by unfolding (R205). -/
theorem recordError_eq (k : ErrorKind) (op : Opcode) (s : State) :
    recordError k op s =
      { s with
        err := true
        errOvf := s.err || s.errOvf
        ecode := if s.err then s.ecode else k.code
        eop := if s.err then s.eop else op } := by
  cases h : s.err with
  | false => simp [recordError_first h]
  | true => simp [recordError_later h, ← h]

theorem allKeysValid_eq (s : State) :
    allKeysValid s = (s.kvalid[0] && s.kvalid[1] && s.kvalid[2] && s.kvalid[3] && s.kvalid[4]) := by
  rw [Bool.eq_iff_iff, allKeysValid_iff]
  simp [Fin.forall_fin_succ, and_assoc]

/-- A word compared with a constant, as a word and as a number. -/
theorem bne_eq_not_toNat_beq (w c : Word) : (w != c) = !(w.toNat == c.toNat) := by
  rw [Bool.eq_iff_iff]
  simp [BitVec.toNat_inj]

/-- The first cause that applies is the head, or it is looked for in the tail. -/
theorem firstCause_cons (b : Bool) (k : ErrorKind) (l : List (Bool × ErrorKind)) :
    (((b, k) :: l).find? (·.1)).map (·.2) = if b then some k else (l.find? (·.1)).map (·.2) := by
  cases b <;> rfl

/-- R203's order, as the checks one after the other, each with the condition the rules test. -/
theorem reportedError_eq (i : Instr) (s : State) :
    reportedError i s =
      if keyIndexIllegal i then some .configuration
      else if Instr.readsTable i && !s.tablesOk then some .table
      else if stateMissing i s then some .configuration
      else if counterUnfit i s then some .configuration
      else if Instr.readsBlk i && !decide (s.larg.toNat < 65536) then some .range
      else if Instr.readsPos i && !decide (1 ≤ s.larg.toNat ∧ s.larg.toNat ≤ 16) then some .index
      else none := by
  have blk : decide (65536 ≤ s.larg.toNat) = !decide (s.larg.toNat < 65536) := by
    rw [Bool.eq_iff_iff]
    simp
  have pos : (decide (s.larg.toNat < 1) || decide (16 < s.larg.toNat)) =
      !decide (1 ≤ s.larg.toNat ∧ s.larg.toNat ≤ 16) := by
    rw [Bool.eq_iff_iff]
    simp
  simp only [reportedError, errorCauses, firstCause_cons, blk, pos, List.find?_nil, Option.map_none]

/-- No error applies exactly where every check of the command's rule passes (R201, R203). -/
theorem reportedError_eq_none_iff {i : Instr} {s : State} : reportedError i s = none ↔ ready i s = true := by
  rw [reportedError, Option.map_eq_none_iff, List.find?_eq_none]
  simp only [errorCauses, List.forall_mem_cons]
  cases i <;> simp [ready, keyIndexIllegal, stateMissing, counterUnfit, Instr.readsTable, Instr.readsBlk,
    Instr.readsPos, allKeysValid_eq, bne_eq_not_toNat_beq, Config.totalMax, and_assoc, Nat.one_le_iff_ne_zero]

/-- A command reports the first error in R203's order that applies. -/
theorem exec_of_reported {i : Instr} {s : State} {e : ErrorKind} (h : reportedError i s = some e) :
    exec i s = .next (faulted e s) := by
  simp only [reportedError_eq, keyIndexIllegal, Instr.readsTable, stateMissing, counterUnfit, Instr.readsBlk,
    Instr.readsPos] at h
  cases i with
  | xork k =>
    rcases keyOperand_cases k with ⟨hl, j, hj, ho⟩ | ⟨hf, ho⟩
    · simp only [exec, execXork, ho]
      change settle s (require s.kvalid[j] _ >>= fun _ => _) = _
      simp_all
    · simp_all [exec, execXork, bind, Except.bind]
  | ldkey k =>
    rcases keyOperand_cases k with ⟨hl, j, hj, ho⟩ | ⟨hf, ho⟩
    · simp only [exec, execLdkey, ho]
      change settle s (blkOperand s >>= fun b => _) = _
      rw [settle_blkOperand]
      split <;> simp_all
    · simp_all [exec, execLdkey, bind, Except.bind]
  | _ =>
    simp only [exec, execNop, execLdst, execXori, execSub, execIsub, execPerm, execIperm, execGetbit, execClrkeys,
      execEnc, execDec, execLdgk, execLdrel, execPartialInv, execCheck, execAccum, execClrcnt, execBias, execClrerr,
      settle_require, settle_needTables, settle_blkOperand, settle_posOperand, settle_needCipher, settle_needChecker,
      allKeysValid_eq, bne_eq_not_toNat_beq]
    -- The rule and R203's order now test the same conditions in the same order.
    repeat' split
    all_goals simp_all [not_and_or, -not_and, Config.totalMax]

/-- A command that reports no error has its whole effect (R204). -/
theorem exec_of_unreported {i : Instr} {s : State} (h : reportedError i s = none) :
    exec i s = .next (retire (effect i s)) :=
  exec_of_ready (reportedError_eq_none_iff.1 h)

/-- Two states in which a command reports the same error, and in which its two ends are related, have related next
states: the shape of every statement that a command does not read a register. -/
theorem exec_related {R : State → State → Prop} {i : Instr} {s s' t : State} (h : exec i s = .next t)
    (report : reportedError i s' = reportedError i s)
    (onError : ∀ k, R (faulted k s) (faulted k s'))
    (onEffect : ready i s = true → R (retire (effect i s)) (retire (effect i s'))) :
    ∃ t', exec i s' = .next t' ∧ R t t' := by
  cases hr : reportedError i s with
  | some k =>
    rw [exec_of_reported hr, Host.Outcome.next.injEq] at h
    exact ⟨_, exec_of_reported (report.trans hr), h ▸ onError k⟩
  | none =>
    rw [exec_of_unreported hr, Host.Outcome.next.injEq] at h
    exact ⟨_, exec_of_unreported (report.trans hr), h ▸ onEffect (reportedError_eq_none_iff.1 hr)⟩

end Sys2Proof.Machine
end

section
/-! PROOFS. What each command writes and what the attack commands do not read (spec/10_state.md R20, R27). -/

namespace Sys2Proof.Machine

/-! ## What no command writes (R20) -/

@[simp] theorem effect_arg (i : Instr) (s : State) : (effect i s).arg = s.arg := by cases i <;> rfl
@[simp] theorem effect_pending (i : Instr) (s : State) : (effect i s).pending = s.pending := by cases i <;> rfl
@[simp] theorem effect_lcmd (i : Instr) (s : State) : (effect i s).lcmd = s.lcmd := by cases i <;> rfl
@[simp] theorem effect_larg (i : Instr) (s : State) : (effect i s).larg = s.larg := by cases i <;> rfl
@[simp] theorem effect_tablesOk (i : Instr) (s : State) : (effect i s).tablesOk = s.tablesOk := by cases i <;> rfl
@[simp] theorem effect_sbox (i : Instr) (s : State) : (effect i s).sbox = s.sbox := by cases i <;> rfl
@[simp] theorem effect_perm (i : Instr) (s : State) : (effect i s).perm = s.perm := by cases i <;> rfl
@[simp] theorem effect_sinv (i : Instr) (s : State) : (effect i s).sinv = s.sinv := by cases i <;> rfl
@[simp] theorem effect_pinv (i : Instr) (s : State) : (effect i s).pinv = s.pinv := by cases i <;> rfl
@[simp] theorem effect_inReset (i : Instr) (s : State) : (effect i s).inReset = s.inReset := by cases i <;> rfl
@[simp] theorem effect_schedule (i : Instr) (s : State) : (effect i s).schedule = s.schedule := by cases i <;> rfl
@[simp] theorem effect_rdata (i : Instr) (s : State) : (effect i s).rdata = s.rdata := by cases i <;> rfl

/-! ## Which commands write a register (R20's last column) -/

section Writers

variable {i : Instr} {s : State}

theorem effect_st_writers (h : (effect i s).st ≠ s.st) :
    i ∈ [.ldst, .xori, .sub, .isub, .perm, .iperm, .enc, .dec, .partialInv] ∨ ∃ k, i = .xork k := by
  cases i <;> simp [effect] at h ⊢

theorem effect_keys_writers (h : (effect i s).key ≠ s.key ∨ (effect i s).kvalid ≠ s.kvalid) :
    i = .clrkeys ∨ ∃ k, i = .ldkey k := by
  cases i <;> simp [effect] at h ⊢

theorem effect_guess_writers (h : (effect i s).gkey ≠ s.gkey ∨ (effect i s).gvalid ≠ s.gvalid) : i = .ldgk := by
  cases i <;> simp [effect] at h ⊢

theorem effect_relation_writers
    (h : (effect i s).pmask ≠ s.pmask ∨ (effect i s).umask ≠ s.umask ∨ (effect i s).rvalid ≠ s.rvalid) :
    i = .ldrel := by
  cases i <;> simp [effect] at h ⊢

theorem effect_counters_writers (h : (effect i s).matchCnt ≠ s.matchCnt ∨ (effect i s).total ≠ s.total) :
    i = .accum ∨ i = .clrcnt := by
  cases i <;> simp [effect] at h ⊢

theorem effect_bias_writers (h : (effect i s).bnum ≠ s.bnum ∨ (effect i s).bden ≠ s.bden) :
    i = .bias ∨ i = .clrcnt := by
  cases i <;> simp [effect] at h ⊢

theorem effect_bvalid_writers (h : (effect i s).bvalid ≠ s.bvalid) : i = .bias ∨ i = .accum ∨ i = .clrcnt := by
  cases i <;> simp [effect] at h ⊢

theorem effect_res_writers (h : (effect i s).res ≠ s.res) : i = .getbit ∨ i = .check ∨ i = .accum := by
  cases i <;> simp [effect] at h ⊢

theorem effect_fsm_writers (h : (effect i s).fsm ≠ s.fsm) : i = .enc ∨ i = .dec := by
  cases i <;> simp [effect] at h ⊢

theorem effect_errorRecord_writers (h : errorRecord (effect i s) ≠ errorRecord s) : i = .clrerr := by
  cases i <;> simp [effect, errorRecord] at h ⊢

end Writers

/-- Settles O41: an error leaves everything but the record and PENDING, and an effect's writers are R20's. -/
theorem onlyNamedCommandsWrite : Obligations.OnlyNamedCommandsWrite := by
  intro i s t h
  cases hr : reportedError i s with
  | some k =>
    rw [exec_of_reported hr, Host.Outcome.next.injEq] at h
    subst h
    simp
  | none =>
    rw [exec_of_unreported hr, Host.Outcome.next.injEq] at h
    subst h
    exact ⟨effect_st_writers, effect_keys_writers, effect_guess_writers, effect_relation_writers,
      effect_counters_writers, effect_bias_writers, effect_bvalid_writers, effect_res_writers, effect_fsm_writers,
      fun h => .inl (effect_errorRecord_writers h), rfl, by simp⟩

/-! ## Registers a command does not read -/

/-- Settles O39: the checks of these commands and their effects read neither KEY1..KEY5 nor KVALID. -/
theorem attackIgnoresTheRoundKeys : Obligations.AttackIgnoresTheRoundKeys := by
  intro i s ks vs hi t h
  obtain ⟨_, ht', rfl⟩ := exec_related (R := fun t t' => t' = { t with key := ks, kvalid := vs })
    (s' := { s with key := ks, kvalid := vs }) h
    (by rcases hi with rfl | rfl | rfl <;> rfl)
    (fun k => by simp only [faulted, recordError_eq]; rfl)
    (fun _ => by rcases hi with rfl | rfl | rfl <;> rfl)
  exact ht'

end Sys2Proof.Machine
end

section
/-! PROOFS. The core's turn, the rounds of the state machine and the fields of STATUS
(spec/10_state.md R32, R40, R41). -/

namespace Sys2Proof.Machine

/-- Settles O4: the core's turn is the completion of the decoded command, with the schedule's first event gone. -/
theorem stepRunsTheDecodedCommand : Obligations.StepRunsTheDecodedCommand := by
  intro s i hp hr hd
  refine ⟨fun he => ?_, fun rest he => ?_⟩
  · rw [step_empty he, coreTurn_busy hp hr, completeCommand_decoded hd]
  · rw [step_event he]
    have hb := coreTurn_busy (s := { s with schedule := rest }) hp hr
    exact hb.trans (completeCommand_decoded hd)

/-- Settles O60: each internal step is the round it stands for, and ENC and DEC, being ready, hold the last one. -/
theorem stateMachineTakesTheRoundValues : Obligations.StateMachineTakesTheRoundValues := by
  intro s
  refine ⟨⟨rfl, rfl, rfl, rfl, rfl⟩, ⟨rfl, rfl, rfl, rfl, rfl⟩, ⟨rfl, rfl, rfl, rfl, rfl, rfl, rfl, rfl⟩,
    fun ht hk => ?_⟩
  have hr : (s.tablesOk && allKeysValid s) = true := by rw [ht, allKeysValid_iff.2 hk]; rfl
  exact ⟨⟨_, exec_of_ready (i := .enc) hr, rfl, rfl⟩, _, exec_of_ready (i := .dec) hr, rfl, rfl⟩

/-! ## The fields of STATUS (R32) -/

/-- The fields of more than one bit: every field below one is passed over, and the field itself is then the low end. -/
theorem statusWord_fields (s : State) :
    (statusWord s).extractLsb' 4 3 = s.ecode ∧ (statusWord s).extractLsb' 8 5 = kvalidBits s ∧
      (statusWord s).extractLsb' 17 7 = 0 ∧ (statusWord s).extractLsb' 24 8 = s.eop := by
  refine ⟨?_, ?_, ?_, ?_⟩
  all_goals
    unfold statusWord
    repeat rw [BitVec.extractLsb'_append_eq_of_le (by decide)]
  · exact BitVec.extractLsb'_append_eq_right
  · exact BitVec.extractLsb'_append_eq_right
  · exact BitVec.extractLsb'_append_eq_right
  · exact BitVec.extractLsb'_eq_self

theorem kvalidBits_getLsbD (s : State) (i : Fin 5) : (kvalidBits s).getLsbD i.val = s.kvalid[i] := by
  simp only [kvalidBits, BitVec.getLsbD_append]
  fin_cases i <;> simp

/-- Settles O43: the one-bit fields by their distance from bit 0, the others as fields. -/
theorem statusFieldsAreInPlace : Obligations.StatusFieldsAreInPlace := by
  intro s
  obtain ⟨ecode, kvalid, reserved, eop⟩ := statusWord_fields s
  have keyBit : ∀ i : Fin 5, (statusWord s).getLsbD (8 + i.val) = s.kvalid[i] := fun i => by
    rw [← kvalidBits_getLsbD, ← kvalid, BitVec.getLsbD_extractLsb']
    simp
  refine ⟨?_, ?_, ?_, ?_, ecode, ?_, keyBit, ?_, ?_, ?_, ?_, reserved, eop⟩
  all_goals
    simp only [statusWord, BitVec.getLsbD_append]
    simp

end Sys2Proof.Machine
end

section
/-! PROOFS. The registers that hold no value are not read (spec/10_state.md R38 to R41): a relation of two states that
every turn keeps. -/

namespace Sys2Proof.Machine

/-- The relation `R` of two states holds after every turn the two take together, if it held before. -/
structure KeptByTurns (R : State → State → Prop) : Prop where
  rescheduled : ∀ {s s'} es, R s s' → R { s with schedule := es } { s' with schedule := es }
  schedule : ∀ {s s'}, R s s' → s'.schedule = s.schedule
  core : ∀ {s s' t}, R s s' → coreTurn s = .next t → ∃ t', coreTurn s' = .next t' ∧ R t t'
  read : ∀ {s s'} r, R s s' → R (portRead r s) (portRead r s')
  write : ∀ {s s'} r v, R s s' → R (portWrite r v s) (portWrite r v s')
  assert : ∀ {s s'}, R s s' → R (assertReset s) (assertReset s')
  release : ∀ {s s'}, R s s' → R (releaseReset s) (releaseReset s')

theorem busAccess_related {R : State → State → Prop} {o n : Nat} {f f' : PortReg → State} {t : State}
    (hf : ∀ r, R (f r) (f' r)) (h : busAccess o n f = .next t) : ∃ t', busAccess o n f' = .next t' ∧ R t t' := by
  unfold busAccess at h ⊢
  split at h
  · next r _ =>
    rw [Host.Outcome.next.injEq] at h
    exact ⟨_, rfl, h ▸ hf r⟩
  · simp at h

/-- A relation kept by the turns is kept by a step (R11, R68). -/
theorem KeptByTurns.step {R : State → State → Prop} (K : KeptByTurns R) {s s' t : State} (h : R s s')
    (ht : step s = .next t) : ∃ t', Machine.step s' = .next t' ∧ R t t' := by
  cases he : s.schedule with
  | nil =>
    rw [step_empty he] at ht
    rw [step_empty ((K.schedule h).trans he)]
    exact K.core h ht
  | cons e rest =>
    rw [step_event he] at ht
    rw [step_event ((K.schedule h).trans he)]
    have hu := K.rescheduled rest h
    cases e with
    | core => exact K.core hu ht
    | read r =>
      cases ht
      exact ⟨_, rfl, K.read r hu⟩
    | write r v =>
      cases ht
      exact ⟨_, rfl, K.write r v hu⟩
    | busRead o n => exact busAccess_related (fun r => K.read r hu) ht
    | busWrite o n v => exact busAccess_related (fun r => K.write r v hu) ht
    | resetAssert =>
      cases ht
      exact ⟨_, rfl, K.assert hu⟩
    | resetRelease =>
      cases ht
      exact ⟨_, rfl, K.release hu⟩

/-- A write to any register but CMD and ARG changes nothing (R63). -/
theorem portWrite_ignored {r : PortReg} {v : Word} {s : State} (hc : r ≠ .cmd) (ha : r ≠ .arg) :
    portWrite r v s = s := by
  cases r <;> simp_all [portWrite]

/-- What a port write can do to two related states: keep them, present a command to both, or write ARG of both. -/
theorem portWrite_related {R : State → State → Prop} {s s' : State} (h : R s s') (hr : s'.inReset = s.inReset)
    (r : PortReg) (v : Word) (present : R (presentCommand v s) (presentCommand v s'))
    (arg : R { s with arg := v } { s' with arg := v }) : R (portWrite r v s) (portWrite r v s') := by
  rcases Bool.eq_false_or_eq_true s.inReset with hs | hs
  · rwa [portWrite_inReset hs, portWrite_inReset (hr.trans hs)]
  · cases r with
    | cmd => rwa [portWrite_cmd hs, portWrite_cmd (hr.trans hs)]
    | arg => rwa [portWrite_arg hs, portWrite_arg (hr.trans hs)]
    | _ => rwa [portWrite_ignored (by decide) (by decide), portWrite_ignored (by decide) (by decide)]

/-- What a release of reset can do to two related states: keep them, or perform the reset sequence in both. -/
theorem releaseReset_related {R : State → State → Prop} {s s' : State} (h : R s s') (hr : s'.inReset = s.inReset)
    (reset : R { State.resetWith ⟨s.sbox, s.perm⟩ with schedule := s.schedule, rdata := s.rdata }
      { State.resetWith ⟨s'.sbox, s'.perm⟩ with schedule := s'.schedule, rdata := s'.rdata }) :
    R (releaseReset s) (releaseReset s') := by
  unfold releaseReset
  rw [hr]
  split
  · exact reset
  · exact h

/-- Two states that differ in LCMD and LARG at most, and in nothing while a command is in flight (R40). -/
def LatchEquiv (s s' : State) : Prop :=
  ∃ l a, s' = { s with lcmd := l, larg := a } ∧ (s.pending = true → l = s.lcmd ∧ a = s.larg)

/-- Two states that differ in the state machine's registers at most (R41). -/
def FsmEquiv (s s' : State) : Prop := ∃ f, s' = { s with fsm := f }

theorem LatchEquiv.eq_of_pending {s s' : State} (h : LatchEquiv s s') (hp : s.pending = true) : s' = s := by
  obtain ⟨l, a, rfl, hla⟩ := h
  obtain ⟨rfl, rfl⟩ := hla hp
  rfl

theorem LatchEquiv.refl (s : State) : LatchEquiv s s := ⟨s.lcmd, s.larg, rfl, fun _ => ⟨rfl, rfl⟩⟩

/-- Nothing reads LCMD and LARG while no command is in flight, and accepting a command writes both. -/
theorem latchEquiv_keptByTurns : KeptByTurns LatchEquiv where
  rescheduled es := fun ⟨l, a, e, h⟩ => ⟨l, a, e ▸ rfl, h⟩
  schedule := fun ⟨_, _, e, _⟩ => e ▸ rfl
  core {s s' t} h ht := by
    cases hp : s.pending with
    | true => exact ⟨t, h.eq_of_pending hp ▸ ht, .refl t⟩
    | false =>
      obtain rfl : s = t := by simpa [coreTurn_idle hp] using ht
      obtain ⟨l, a, rfl, hla⟩ := h
      exact ⟨_, coreTurn_idle hp, l, a, rfl, hla⟩
  read r := fun ⟨l, a, e, h⟩ => ⟨l, a, by subst e; cases r <;> rfl, h⟩
  write {s s'} r v h := by
    rcases Bool.eq_false_or_eq_true s.pending with hp | hp
    · exact h.eq_of_pending hp ▸ .refl _
    · obtain ⟨l, a, rfl, hla⟩ := h
      refine portWrite_related (R := LatchEquiv) ⟨l, a, rfl, hla⟩ rfl r v ?_ ⟨l, a, rfl, hla⟩
      rw [presentCommand_accepts hp, presentCommand_accepts (by exact hp)]
      exact .refl (latch v s)
  assert := fun ⟨l, a, e, _⟩ => ⟨l, a, e ▸ rfl, nofun⟩
  release {s s'} h := by
    obtain ⟨l, a, rfl, hla⟩ := h
    exact releaseReset_related (R := LatchEquiv) ⟨l, a, rfl, hla⟩ rfl (.refl _)

/-- No command reads the state machine's registers: ENC and DEC start it afresh from ST. -/
theorem effect_with_fsm (i : Instr) (s : State) (f : Fsm) :
    FsmEquiv (retire (effect i s)) (retire (effect i { s with fsm := f })) := by
  cases i <;> exact ⟨_, rfl⟩

theorem recordError_with_fsm (k : ErrorKind) (op : Opcode) (s : State) (f : Fsm) :
    FsmEquiv (recordError k op s) (recordError k op { s with fsm := f }) :=
  ⟨f, by simp only [recordError_eq]⟩

theorem faulted_with_fsm (k : ErrorKind) (s : State) (f : Fsm) :
    FsmEquiv (faulted k s) (faulted k { s with fsm := f }) := by
  obtain ⟨f', e⟩ := recordError_with_fsm k (pendingOpcode s) s f
  exact ⟨f', congrArg retire e⟩

theorem completeCommand_fsm {s t : State} (f : Fsm) (h : completeCommand s = .next t) :
    ∃ t', completeCommand { s with fsm := f } = .next t' ∧ FsmEquiv t t' := by
  cases hd : decode s.lcmd with
  | ok i =>
    rw [completeCommand_decoded hd] at h
    rw [completeCommand_decoded (by exact hd)]
    exact exec_related h rfl (faulted_with_fsm · s f) (fun _ => effect_with_fsm i s f)
  | error e =>
    rw [completeCommand_illegal hd, Host.Outcome.next.injEq] at h
    rw [completeCommand_illegal (by exact hd)]
    exact ⟨_, rfl, h ▸ faulted_with_fsm .illegalCommand s f⟩

/-- No turn reads the state machine's registers. -/
theorem fsmEquiv_keptByTurns : KeptByTurns FsmEquiv where
  rescheduled es := fun ⟨f, e⟩ => ⟨f, e ▸ rfl⟩
  schedule := fun ⟨_, e⟩ => e ▸ rfl
  core {s s' t} h ht := by
    obtain ⟨f, rfl⟩ := h
    unfold coreTurn at ht ⊢
    split at ht
    · next hc =>
      rw [if_pos (by exact hc)]
      exact completeCommand_fsm f ht
    · next hc =>
      rw [if_neg (by exact hc)]
      cases ht
      exact ⟨_, rfl, f, rfl⟩
  read r := fun ⟨f, e⟩ => ⟨f, by subst e; cases r <;> rfl⟩
  write {s s'} r v h := by
    obtain ⟨f, rfl⟩ := h
    refine portWrite_related (R := FsmEquiv) ⟨f, rfl⟩ rfl r v ?_ ⟨f, rfl⟩
    rcases Bool.eq_false_or_eq_true s.pending with hp | hp
    · rw [presentCommand_overrun hp, presentCommand_overrun (by exact hp)]
      exact recordError_with_fsm _ _ s f
    · rw [presentCommand_accepts hp, presentCommand_accepts (by exact hp)]
      exact ⟨f, rfl⟩
  assert := fun ⟨f, e⟩ => ⟨f, e ▸ rfl⟩
  release {s s'} h := by
    obtain ⟨f, rfl⟩ := h
    exact releaseReset_related (R := FsmEquiv) ⟨f, rfl⟩ rfl ⟨_, rfl⟩

/-- While TABLES_OK = 0 a command that completes without an error reads neither SINV nor PINV (R38, R39). -/
theorem effect_with_inverses {i : Instr} {s : State} (ht : s.tablesOk = false) (hr : ready i s = true)
    (sinv : SboxTable) (pinv : PermTable) :
    effect i { s with sinv := sinv, pinv := pinv } = { effect i s with sinv := sinv, pinv := pinv } := by
  cases i with
  | isub | iperm | enc | dec | partialInv | check | accum => simp [ready, ht] at hr
  | _ => rfl

/-- Settles O55: two states that differ in LCMD and LARG while idle, or in the state machine, take related steps; and
while TABLES_OK = 0 no command that is ready reads an inverse table. -/
theorem registersWithoutValueAreNeverRead : Obligations.RegistersWithoutValueAreNeverRead := by
  refine ⟨fun s t l a hp ht => ?_, fun s t f ht => ?_, fun i s t sinv pinv ht h => ?_⟩
  · have start : LatchEquiv s { s with lcmd := l, larg := a } := ⟨l, a, rfl, by simp [hp]⟩
    obtain ⟨_, ht', l', a', rfl, hla⟩ := latchEquiv_keptByTurns.step start ht
    exact ⟨l', a', ht', hla⟩
  · obtain ⟨_, ht', f', rfl⟩ := fsmEquiv_keptByTurns.step ⟨f, rfl⟩ ht
    exact ⟨f', ht'⟩
  · obtain ⟨_, ht', rfl⟩ := exec_related (R := fun t t' => t' = { t with sinv := sinv, pinv := pinv })
      (s' := { s with sinv := sinv, pinv := pinv }) h rfl
      (fun k => by simp only [faulted, recordError_eq]; rfl)
      (fun hr => by rw [effect_with_inverses ht hr]; rfl)
    exact ht'

end Sys2Proof.Machine
end

section
/-! PROOFS. The self-check and the inverse tables (spec/10_state.md R35 to R39, spec/70_reset_and_hazards.md R232). -/

namespace Sys2Proof.Machine

/-! ## The tables as functions (R8, R36, R37) -/

theorem lookPosition_eq (q : PermTable) {p : Nat} (h₁ : 1 ≤ p) (h₂ : p ≤ 16) : lookPosition q p = q[p - 1] := by
  rw [lookPosition, if_pos ⟨h₁, h₂⟩, Vector.getElem?_eq_getElem (by omega), Option.getD_some]

/-- The entries of a table are distinct exactly when equal entries have equal places. -/
theorem nodup_toList_iff {α : Type} {n : Nat} (v : Vector α n) :
    v.toList.Nodup ↔ ∀ (a b : Nat) (ha : a < n) (hb : b < n), v[a] = v[b] → a = b := by
  rw [List.nodup_iff_injective_get]
  constructor
  · intro h a b ha hb e
    exact Fin.mk.inj (@h ⟨a, by simpa using ha⟩ ⟨b, by simpa using hb⟩ (by simpa using e))
  · intro h a b e
    exact Fin.ext (h a b (by simpa using a.isLt) (by simpa using b.isLt) (by simpa using e))

/-- SBOX sends distinct nibbles to distinct nibbles (R35). -/
def SboxBijective (t : SboxTable) : Prop := ∀ x y : Nibble, lookNibble t x = lookNibble t y → x = y

/-- PERM keeps the positions 1..16, and sends distinct ones to distinct ones (R35). -/
def PermBijective (q : PermTable) : Prop :=
  (∀ p, 1 ≤ p → p ≤ 16 → 1 ≤ lookPosition q p ∧ lookPosition q p ≤ 16) ∧
    ∀ p r, 1 ≤ p → p ≤ 16 → 1 ≤ r → r ≤ 16 → lookPosition q p = lookPosition q r → p = r

theorem bijectiveSbox_iff (t : SboxTable) : bijectiveSbox t = true ↔ SboxBijective t := by
  rw [bijectiveSbox, decide_eq_true_iff, nodup_toList_iff]
  constructor
  · intro h x y e
    exact BitVec.eq_of_toNat_eq (h _ _ x.isLt y.isLt e)
  · intro h a b ha hb e
    have ha' : (BitVec.ofNat 4 a).toNat = a := Nat.mod_eq_of_lt ha
    have hb' : (BitVec.ofNat 4 b).toNat = b := Nat.mod_eq_of_lt hb
    rw [← ha', ← hb', h (BitVec.ofNat 4 a) (BitVec.ofNat 4 b) (by simpa only [lookNibble, ha', hb'] using e)]

theorem forall_mem_perm_iff (q : PermTable) (P : Nat → Prop) :
    (∀ j ∈ q.toList, P j) ↔ ∀ p, 1 ≤ p → p ≤ 16 → P (lookPosition q p) := by
  constructor
  · intro h p h₁ h₂
    rw [lookPosition_eq q h₁ h₂]
    exact h _ (by simp)
  · intro h j hj
    obtain ⟨a, ha, rfl⟩ := Vector.mem_iff_getElem.1 (by simpa using hj)
    simpa [lookPosition_eq q (Nat.le_add_left 1 a) ha] using h (a + 1) (by omega) (by omega)

theorem bijectivePerm_iff (q : PermTable) : bijectivePerm q = true ↔ PermBijective q := by
  rw [bijectivePerm, Bool.and_eq_true, decide_eq_true_iff, decide_eq_true_iff, nodup_toList_iff,
    forall_mem_perm_iff q fun j => 1 ≤ j ∧ j ≤ 16, and_comm]
  refine and_congr_right' ⟨fun h p r hp hp' hr hr' e => ?_, fun h a b ha hb e => ?_⟩
  · rw [lookPosition_eq q hp hp', lookPosition_eq q hr hr'] at e
    have := h _ _ _ _ e
    omega
  · have e' : lookPosition q (a + 1) = lookPosition q (b + 1) := by
      rw [lookPosition_eq q (by omega) (by omega), lookPosition_eq q (by omega) (by omega)]
      exact e
    have := h (a + 1) (b + 1) (by omega) (by omega) (by omega) (by omega) e'
    omega

/-- The self-check passes exactly when both tables are bijections (R35). -/
theorem selfCheck_iff (sb : SboxTable) (pm : PermTable) :
    selfCheck sb pm = true ↔ SboxBijective sb ∧ PermBijective pm := by
  rw [selfCheck, Bool.and_eq_true, bijectiveSbox_iff, bijectivePerm_iff]

/-! ## The reset sequence's loops invert the tables (R232) -/

/-- SINV at an entry of SBOX is the entry's place. -/
theorem lookNibble_invertSbox {t : SboxTable} (h : SboxBijective t) (x : Nibble) :
    lookNibble (invertSbox t) (lookNibble t x) = x := by
  have hx : BitVec.ofNat 4 x.toNat = x := by simp
  have keys : ((List.range 16).map fun n => (lookNibble t (BitVec.ofNat 4 n)).toNat).Nodup := by
    refine List.Nodup.map_on (fun a ha b hb e => ?_) List.nodup_range
    have e' := congrArg BitVec.toNat (h _ _ (BitVec.eq_of_toNat_eq e))
    rw [List.mem_range] at ha hb
    simpa [Nat.mod_eq_of_lt ha, Nat.mod_eq_of_lt hb] using e'
  have stored := foldl_set_at (fun n => (lookNibble t (BitVec.ofNat 4 n)).toNat) (BitVec.ofNat 4) (List.range 16)
    noNibbles keys (List.mem_range.2 x.isLt) (BitVec.isLt _)
  have place : (lookNibble t x).toNat < 16 := (lookNibble t x).isLt
  rw [hx, Vector.getElem?_eq_getElem place, Option.some.injEq] at stored
  exact stored

/-- A passed self-check makes SINV a two-sided inverse: SBOX, being injective on the nibbles, reaches all of them. -/
theorem sboxInverse_invertSbox {t : SboxTable} (h : SboxBijective t) : SboxInverse t (invertSbox t) := by
  refine ⟨lookNibble_invertSbox h, fun y => ?_⟩
  obtain ⟨x, rfl⟩ := Finite.surjective_of_injective h y
  rw [lookNibble_invertSbox h]

/-- PINV at an entry of PERM is the entry's position. -/
theorem lookPosition_invertPerm {q : PermTable} (h : PermBijective q) {p : Nat} (h₁ : 1 ≤ p) (h₂ : p ≤ 16) :
    lookPosition (invertPerm q) (lookPosition q p) = p := by
  obtain ⟨range, inj⟩ := h
  have keys : ((List.range' 1 16).map fun i => lookPosition q i - 1).Nodup := by
    refine List.Nodup.map_on (fun a ha b hb e => ?_) List.nodup_range'
    rw [List.mem_range'_1] at ha hb
    have ra := range a ha.1 (by omega)
    have rb := range b hb.1 (by omega)
    exact inj a b ha.1 (by omega) hb.1 (by omega) (by omega)
  obtain ⟨l₁, l₂⟩ := range p h₁ h₂
  have stored := foldl_set_at (fun i => lookPosition q i - 1) (fun i => i) (List.range' 1 16)
    noPositions keys (x := p) (List.mem_range'_1.2 ⟨h₁, by omega⟩) (by omega)
  rw [Vector.getElem?_eq_getElem (by omega), Option.some.injEq] at stored
  rw [lookPosition_eq _ l₁ l₂]
  exact stored

/-- PERM, being injective on the positions 1..16, reaches all of them. -/
theorem lookPosition_surj {q : PermTable} (h : PermBijective q) {p : Nat} (h₁ : 1 ≤ p) (h₂ : p ≤ 16) :
    ∃ r, 1 ≤ r ∧ r ≤ 16 ∧ lookPosition q r = p := by
  obtain ⟨range, inj⟩ := h
  have surj : Set.SurjOn (lookPosition q) (Finset.Icc 1 16) (Finset.Icc 1 16) := by
    refine Finset.surjOn_of_injOn_of_card_le _ (fun r hr => ?_) (fun r hr r' hr' e => ?_) le_rfl
    · simp at hr ⊢
      exact range r hr.1 hr.2
    · simp at hr hr'
      exact inj r r' hr.1 hr.2 hr'.1 hr'.2 e
  obtain ⟨r, hr, e⟩ := surj (by simpa using ⟨h₁, h₂⟩)
  simp at hr
  exact ⟨r, hr.1, hr.2, e⟩

/-- A passed self-check makes PINV a two-sided inverse on the positions 1..16. -/
theorem permInverse_invertPerm {q : PermTable} (h : PermBijective q) : PermInverse q (invertPerm q) := by
  intro p h₁ h₂
  obtain ⟨l₁, l₂⟩ := h.1 p h₁ h₂
  obtain ⟨r, r₁, r₂, rfl⟩ := lookPosition_surj h h₁ h₂
  have back := lookPosition_invertPerm h r₁ r₂
  refine ⟨⟨l₁, l₂, lookPosition_invertPerm h h₁ h₂⟩, ?_⟩
  rw [back]
  exact ⟨r₁, r₂, rfl⟩

/-- The reset sequence leaves consistent tables, whatever tables the block is built with. -/
theorem resetWith_tables (c : Config) : TablesConsistent (State.resetWith c) := by
  refine ⟨rfl, fun h => ?_⟩
  have hc : selfCheck c.sbox c.perm = true := h
  obtain ⟨hs, hp⟩ := (selfCheck_iff _ _).1 hc
  simp only [State.resetWith, hc, if_true]
  exact ⟨sboxInverse_invertSbox hs, permInverse_invertPerm hp⟩

/-- While TABLES_OK = 0 the commands that read a table report TableError: it comes first for them, none having a key
index (R201, R203). -/
theorem reportedError_table {i : Instr} {s : State} (hi : Instr.readsTable i = true) (ht : s.tablesOk = false) :
    reportedError i s = some .table := by
  have hk : keyIndexIllegal i = false := by cases i <;> simp_all [Instr.readsTable, keyIndexIllegal]
  simp [reportedError_eq, hk, hi, ht]

/-- Settles O51: the self-check is bijectivity of the tables as functions, and a failed one is every table command's
first error. -/
theorem selfCheckMeansBijective : Obligations.SelfCheckMeansBijective := by
  refine ⟨selfCheck_iff, fun _ => rfl, by decide, fun i s hi ht => ?_⟩
  have hr : Instr.readsTable i = true := by fin_cases hi <;> rfl
  exact exec_of_reported (reportedError_table hr ht)

/-- Settles O52: the loops of the reset sequence invert every bijection. -/
theorem resetComputesTheInverseTables : Obligations.ResetComputesTheInverseTables :=
  ⟨fun c h => (resetWith_tables c).2 h, by decide, by decide⟩

end Sys2Proof.Machine
end

section
/-! PROOFS. The invariant: reset establishes it, every shared operation and every command's effect keeps it, so every
step does (spec/10_state.md R29, R30, R33, R35). -/

namespace Sys2Proof.Machine

/-! ## Reset establishes the invariant -/

theorem resetWith_inv (c : Config) : (State.resetWith c).Inv where
  record := by
    simp only [ErrorRecordLegal, State.resetWith]
    cases selfCheck c.sbox c.perm <;> simp [resetErrorCode, resetErrorOpcode]
  counters := ⟨le_rfl, Nat.zero_le _⟩
  bias := nofun
  tables := resetWith_tables c
  unloaded := ⟨fun i _ => by simp [State.resetWith], fun _ => rfl, fun _ => ⟨rfl, rfl⟩⟩
  reset := nofun

/-! ## The shared operations keep it -/

section Operations

variable {s : State} (h : s.Inv)
include h

/-- The host's fields and ARG stand in no clause of the invariant. -/
theorem State.Inv.with_host (es : List Event) (a r : Word) : { s with schedule := es, arg := a, rdata := r }.Inv :=
  ⟨h.record, h.counters, h.bias, h.tables, h.unloaded, h.reset⟩

theorem State.Inv.recordError (k : ErrorKind) (op : Opcode) : (recordError k op s).Inv where
  record := by
    refine ⟨?_, by simp⟩
    rw [recordError_ecode]
    split
    · exact h.record.1
    · cases k <;> decide
  counters := by simpa [CountersBounded] using h.counters
  bias := by simpa [BiasCurrent] using h.bias
  tables := by simpa [TablesConsistent] using h.tables
  unloaded := by simpa [UnloadedZero] using h.unloaded
  reset := by simpa [ResetAbandons] using h.reset

theorem State.Inv.retire : (retire s).Inv :=
  ⟨h.record, h.counters, h.bias, h.tables, h.unloaded, fun _ => rfl⟩

theorem State.Inv.faulted (k : ErrorKind) : (faulted k s).Inv := (h.recordError k _).retire

theorem State.Inv.latch (hr : s.inReset = false) (w : Word) : (latch w s).Inv :=
  ⟨h.record, h.counters, h.bias, h.tables, h.unloaded, fun e => by simp [hr] at e⟩

theorem State.Inv.portRead (r : PortReg) : (portRead r s).Inv := h.with_host s.schedule s.arg _

theorem State.Inv.portWrite (r : PortReg) (v : Word) : (portWrite r v s).Inv := by
  rcases portWrite_cases r v s with e | ⟨hr, -, e⟩ | ⟨-, -, e⟩ | ⟨-, e⟩ <;> rw [e]
  · exact h
  · exact h.latch hr v
  · exact h.recordError _ _
  · exact h.with_host s.schedule v s.rdata

theorem State.Inv.assertReset : (assertReset s).Inv :=
  ⟨h.record, h.counters, h.bias, h.tables, h.unloaded, fun _ => rfl⟩

theorem State.Inv.releaseReset : (releaseReset s).Inv := by
  unfold Machine.releaseReset
  split
  · exact (resetWith_inv _).with_host s.schedule _ s.rdata
  · exact h

/-! ## The effect of a command that is ready keeps each clause -/

theorem effect_errorRecordLegal (i : Instr) : ErrorRecordLegal (effect i s) := by
  cases i with
  | clrerr => exact ⟨by simp [effect], fun _ => ⟨rfl, rfl, rfl⟩⟩
  | _ => exact h.record

/-- The commands that write a counter keep the bound: ACCUM was refused at TOTAL_MAX. -/
theorem effect_countersBounded {i : Instr} (hr : ready i s = true) : CountersBounded (effect i s) := by
  obtain ⟨hm, ht⟩ := h.counters
  cases i with
  | clrcnt => exact ⟨le_rfl, Nat.zero_le _⟩
  | accum =>
    have hlt : s.total.toNat < 0x7FFFFFFF := by
      have hne : s.total ≠ Config.totalMax := by
        simp only [ready, Bool.and_eq_true, bne_iff_ne] at hr
        exact hr.2
      exact lt_of_le_of_ne ht fun e => hne (BitVec.eq_of_toNat_eq e)
    have ht' := countIf_toNat (b := true) (c := s.total) (by omega)
    have hm' := countIf_toNat (b := pairHolds s (pairOperand s)) (c := s.matchCnt) (by omega)
    have hb := Bool.toNat_le (pairHolds s (pairOperand s))
    simp only [CountersBounded, effect, ht', hm', Bool.toNat_true, Config.totalMax, BitVec.toNat_ofNat]
    omega
  | _ => exact ⟨hm, ht⟩

/-- BIAS stores both numbers whole, within the counters' bound; a command that changes a counter clears BVALID. -/
theorem effect_biasCurrent {i : Instr} (hr : ready i s = true) : BiasCurrent (effect i s) := by
  cases i with
  | accum => exact nofun
  | clrcnt => exact nofun
  | bias =>
    intro _
    obtain ⟨hm, ht⟩ := h.counters
    have hn := biasNumerator_le hm
    have hmax : s.total.toNat ≤ 0x7FFFFFFF := ht
    have hne : s.total ≠ 0 := by simpa [ready] using hr
    refine ⟨fun e => hne (BitVec.eq_of_toNat_eq e), ?_, ?_⟩
    · exact Nat.mod_eq_of_lt (by omega)
    · exact Nat.mod_eq_of_lt (by omega)
  | _ => exact h.bias

theorem effect_tablesConsistent (i : Instr) : TablesConsistent (effect i s) := by
  simpa [TablesConsistent] using h.tables

/-- Loading a register sets its validity bit, and CLRKEYS clears the keys with theirs. -/
theorem effect_unloadedZero (i : Instr) : UnloadedZero (effect i s) := by
  obtain ⟨hk, hg, hr⟩ := h.unloaded
  cases i with
  | ldkey k =>
    refine ⟨fun j hj => ?_, hg, hr⟩
    by_cases e : k.toNat - 1 = j.val
    · simp [effect, e] at hj
    · simp only [effect, Fin.getElem_fin, Vector.getElem_setIfInBounds j.isLt, if_neg e] at hj ⊢
      exact hk j hj
  | clrkeys => exact ⟨fun j _ => by simp [effect], hg, hr⟩
  | ldgk => exact ⟨hk, nofun, hr⟩
  | ldrel => exact ⟨hk, hg, nofun⟩
  | _ => exact ⟨hk, hg, hr⟩

theorem State.Inv.effect {i : Instr} (hr : ready i s = true) : (effect i s).Inv where
  record := effect_errorRecordLegal h i
  counters := effect_countersBounded h hr
  bias := effect_biasCurrent h hr
  tables := effect_tablesConsistent h i
  unloaded := effect_unloadedZero h i
  reset := by simpa [ResetAbandons] using h.reset

theorem State.Inv.completeCommand {t : State} (ht : completeCommand s = .next t) : t.Inv := by
  rcases completeCommand_cases ht with ⟨k, rfl⟩ | ⟨i, -, hr, rfl⟩
  · exact h.faulted k
  · exact (h.effect hr).retire

end Operations

/-- Settles O57: each turn a step can be keeps the invariant. -/
theorem stepKeepsTheStateLegal : Obligations.StepKeepsTheStateLegal := by
  intro s t h ht
  obtain ⟨u, hu, turn⟩ := step_cases ht
  have hi : u.Inv := hu ▸ h.with_host _ s.arg s.rdata
  rcases turn with rfl | ⟨-, -, hc⟩ | ⟨r, rfl⟩ | ⟨r, v, rfl⟩ | rfl | rfl
  · exact hi
  · exact hi.completeCommand hc
  · exact hi.portRead r
  · exact hi.portWrite r v
  · exact hi.assertReset
  · exact hi.releaseReset

end Sys2Proof.Machine
end

section
/-! PROOFS. The register port: its indices, what a read hands to the host, what a write does, and the bus accesses that
stand for one (spec/20_memory.md R60 to R67). -/

namespace Sys2Proof.Machine

/-! ## The indices (R61) -/

/-- The list of the registers has each register at its index. -/
theorem all_getElem?_index (r : PortReg) : PortReg.all[r.index.toNat]? = some r := by cases r <;> rfl

theorem index_injective : Function.Injective PortReg.index := by
  intro q r h
  have hq := all_getElem?_index q
  rw [h, all_getElem?_index, Option.some.injEq] at hq
  exact hq.symm

theorem index_surjective : Function.Surjective PortReg.index := by
  have listed : ∀ n : BitVec 4, ∃ r ∈ PortReg.all, r.index = n := by decide
  intro n
  obtain ⟨r, -, h⟩ := listed n
  exact ⟨r, h⟩

/-! ## Port accesses as steps (R60, R63) -/

/-- The schedule and the word read last are the host's: no register's value depends on them (log 1, log 8). -/
theorem portValue_with_host (r : PortReg) (s : State) (es : List Event) (x : Word) :
    portValue r { s with schedule := es, rdata := x } = portValue r s := by cases r <;> rfl

theorem portRead_rdata_with_host (r : PortReg) (s : State) (es : List Event) (x : Word) :
    (portRead r { s with schedule := es, rdata := x }).rdata = (portRead r s).rdata := by
  simp [portValue_with_host]

/-- A read takes its turn and hands over the word that the register holds; it does nothing else. -/
theorem step_read {s : State} {r : PortReg} {rest : List Event} (h : s.schedule = .read r :: rest) :
    step s = .next { s with schedule := rest, rdata := (portRead r s).rdata } := by
  rw [step_event h, ← portRead_rdata_with_host r s rest s.rdata]
  rfl

theorem step_write {s : State} {r : PortReg} {v : Word} {rest : List Event} (h : s.schedule = .write r v :: rest) :
    step s = .next (portWrite r v { s with schedule := rest }) := step_event h

/-! ## What a read returns (R61, R230) -/

/-- A read at the index of `q` is a read of `q`. -/
theorem portRead_rdata_at (q : PortReg) {r : PortReg} {s : State} (hr : s.inReset = false) (h : r.index = q.index) :
    (portRead r s).rdata = portValue q s := by
  rw [index_injective h]
  simp [hr]

/-- The port register that shows KEY(i+1), the one with index i + 4. -/
theorem exists_keyPort (i : Fin 5) :
    ∃ q : PortReg, q.index.toNat = i.val + 4 ∧ ∀ s, portValue q s = s.key[i].setWidth 32 := by
  fin_cases i
  · exact ⟨.key1, rfl, fun _ => rfl⟩
  · exact ⟨.key2, rfl, fun _ => rfl⟩
  · exact ⟨.key3, rfl, fun _ => rfl⟩
  · exact ⟨.key4, rfl, fun _ => rfl⟩
  · exact ⟨.key5, rfl, fun _ => rfl⟩

/-- Two blocks put together, as a number. -/
theorem toNat_append_blocks (p u : Block) : (p ++ u).toNat = p.toNat * 65536 + u.toNat := by
  rw [BitVec.toNat_append, ← Nat.shiftLeft_add_eq_or_of_lt u.isLt, Nat.shiftLeft_eq]

/-- Settles O42: an index names one register, and a read hands over that register's value. -/
theorem readReturnsTheRegister : Obligations.ReadReturnsTheRegister := by
  refine ⟨fun n => ?_, fun s rest r h => ⟨_, step_read h, fun hr => by simp [hr], portRead_rdata_at .cmd,
    portRead_rdata_at .arg, portRead_rdata_at .status, fun hr hi => ?_, fun i hr hi => ?_, fun hr hi => ?_,
    fun hr hi => ?_, portRead_rdata_at .matchCnt, portRead_rdata_at .total, portRead_rdata_at .bnum,
    portRead_rdata_at .bden, portRead_rdata_at .ident⟩⟩
  · obtain ⟨r, rfl⟩ := index_surjective n
    exact ⟨r, rfl, fun q hq => index_injective hq⟩
  · rw [portRead_rdata_at .st hr hi]
    exact BitVec.toNat_setWidth_of_le (by decide)
  · obtain ⟨q, hq, hv⟩ := exists_keyPort i
    rw [portRead_rdata_at q hr (BitVec.eq_of_toNat_eq (hi.trans hq.symm)), hv]
    exact BitVec.toNat_setWidth_of_le (by decide)
  · rw [portRead_rdata_at .gkey hr hi]
    exact BitVec.toNat_setWidth_of_le (by decide)
  · rw [portRead_rdata_at .rel hr hi]
    exact toNat_append_blocks s.pmask s.umask

/-! ## Which writes act (R63, R64) -/

/-- Settles O44: a register with an index from 2 on is neither CMD nor ARG, and the word read is no register's. -/
theorem readsAndIgnoredWritesChangeNothing : Obligations.ReadsAndIgnoredWritesChangeNothing := by
  refine ⟨fun s rest r v h hi => ?_, fun s rest r h => ⟨_, _, step_read h, rfl, ?_⟩⟩
  · have hc : r ≠ .cmd := by
      rintro rfl
      exact absurd hi (by decide)
    have ha : r ≠ .arg := by
      rintro rfl
      exact absurd hi (by decide)
    rw [step_write h, portWrite_ignored hc ha]
  · rw [step_read rfl, portRead_rdata_with_host]
    rfl

/-- Settles O45: a CMD write presents the command, which PENDING lets in or drops; an ARG write writes ARG. -/
theorem commandIsAcceptedOrDropped : Obligations.CommandIsAcceptedOrDropped := by
  refine fun s rest v hr => ⟨fun h => ?_, fun h => ?_⟩
  · rw [step_write h, portWrite_cmd (by exact hr)]
    refine ⟨fun hp => ?_, fun hp => ?_⟩
    · rw [presentCommand_accepts (by exact hp)]
      rfl
    · rw [presentCommand_overrun (by exact hp)]
  · rw [step_write h, portWrite_arg (by exact hr)]

/-! ## Bus accesses (R60, R67) -/

theorem busAccess_register (r : PortReg) (access : PortReg → State) :
    busAccess (4 * r.index.toNat) 4 access = .next (access r) := by
  have h : busRegister (4 * r.index.toNat) 4 = some r := by
    rw [busRegister, if_pos ⟨rfl, Nat.mul_mod_right 4 _⟩, Nat.mul_div_cancel_left _ (by decide)]
    exact all_getElem?_index r
  rw [busAccess, h]

theorem busAccess_refused {offset size : Nat} (h : ¬(size = 4 ∧ offset % 4 = 0 ∧ offset < 64))
    (access : PortReg → State) : busAccess offset size access = .refused .notOneWholeRegister := by
  have hn : busRegister offset size = none := by
    unfold busRegister
    split
    · exact List.getElem?_eq_none (show 16 ≤ offset / 4 by omega)
    · rfl
  rw [busAccess, hn]

/-- Settles O49: an aligned access of 4 bytes finds the register with its index, and any other finds none. -/
theorem busAccessIsAWholeRegister : Obligations.BusAccessIsAWholeRegister := by
  refine fun s rest offset size v => ⟨fun h => ⟨?_, fun hb => ?_⟩, fun h => ⟨?_, fun hb => ?_⟩⟩
  · rintro r rfl rfl
    rw [step_event h, step_event rfl]
    exact busAccess_register r _
  · rw [step_event h]
    exact busAccess_refused hb _
  · rintro r rfl rfl
    rw [step_event h, step_event rfl]
    exact busAccess_register r _
  · rw [step_event h]
    exact busAccess_refused hb _

end Sys2Proof.Machine
end

section
/-! PROOFS. The command in flight: how a placed word runs, what the host may do meanwhile, and what stays out of reach
of every command (spec/20_memory.md R64, R66, R70, R71). -/

namespace Sys2Proof.Machine

/-! ## A placed word (R64, R70) -/

theorem decode_of_decodeTableWord {n w : Nat} {i : Instr} (h : decodeTableWord n w = some i) :
    decode (tableWord n w) = .ok i := by
  unfold decodeTableWord at h
  split at h <;> simp_all

/-- A table word of the full width is the word itself. -/
theorem tableWord_32 (w : Nat) : tableWord 32 w = BitVec.ofNat 32 w :=
  BitVec.eq_of_toNat_eq (by simp [tableWord])

/-- Settles O5: the placed word is in flight, and the core's turn is the schedule's first. -/
theorem placedWordRunsNext : Obligations.PlacedWordRunsNext := by
  intro s w i h
  rw [← tableWord_32]
  exact (stepRunsTheDecodedCommand (s.withFetchWord 32 w) i rfl rfl (decode_of_decodeTableWord h)).2 _ rfl

/-! ## ARG while a command is in flight (R70, R241) -/

theorem faulted_with_arg (k : ErrorKind) (s : State) (v : Word) :
    faulted k { s with arg := v } = { faulted k s with arg := v } := by
  simp only [faulted, recordError_eq]
  rfl

/-- A command reads LARG, never ARG. -/
theorem effect_with_arg (i : Instr) (s : State) (v : Word) :
    effect i { s with arg := v } = { effect i s with arg := v } := by cases i <;> rfl

theorem exec_with_arg {i : Instr} {s t : State} (v : Word) (h : exec i s = .next t) :
    exec i { s with arg := v } = .next { t with arg := v } := by
  obtain ⟨_, ht, rfl⟩ := exec_related (R := fun t t' => t' = { t with arg := v }) (s' := { s with arg := v }) h rfl
    (faulted_with_arg · s v) (fun _ => congrArg retire (effect_with_arg i s v))
  exact ht

theorem completeCommand_with_arg {s t : State} (v : Word) (h : completeCommand s = .next t) :
    completeCommand { s with arg := v } = .next { t with arg := v } := by
  cases hd : decode s.lcmd with
  | ok i =>
    rw [completeCommand_decoded hd] at h
    rw [completeCommand_decoded (by exact hd)]
    exact exec_with_arg v h
  | error e =>
    rw [completeCommand_illegal hd, Host.Outcome.next.injEq] at h
    rw [completeCommand_illegal (by exact hd), faulted_with_arg, h]

/-- Settles O47: neither decoding nor a command's rule reads ARG, and a CMD write while busy is only an Overrun. -/
theorem commandInFlightIsUndisturbed : Obligations.CommandInFlightIsUndisturbed := by
  refine ⟨fun s t v => completeCommand_with_arg v, fun s w hp => ?_⟩
  rw [presentCommand_overrun hp]
  simp [hp]

/-! ## Reads and ARG writes while a command is in flight (R66, R242) -/

theorem runSteps_succ {s t : State} (n : Nat) (h : step s = .next t) : runSteps (n + 1) s = runSteps n t := by
  simp [runSteps, h]

/-- A host that only reads and writes ARG changes ARG and the word it last read, nothing else. -/
theorem runSteps_polling {s : State} {events rest : List Event} (hr : s.inReset = false)
    (hosted : ∀ e ∈ events, (∃ r, e = .read r) ∨ ∃ v, e = .write .arg v) (h : s.schedule = events ++ rest) :
    ∃ a x, runSteps events.length s = .next { s with schedule := rest, arg := a, rdata := x } := by
  induction events generalizing s with
  | nil => exact ⟨s.arg, s.rdata, by rw [← show s.schedule = rest from h]; rfl⟩
  | cons e events ih =>
    obtain ⟨⟨r, rfl⟩ | ⟨v, rfl⟩, later⟩ := List.forall_mem_cons.1 hosted
    · rw [List.length_cons, runSteps_succ _ (step_read h)]
      exact ih (s := { s with schedule := _, rdata := _ }) hr later rfl
    · rw [List.length_cons, runSteps_succ _ (step_write h), portWrite_arg (by exact hr)]
      exact ih (s := { s with schedule := _, arg := v }) hr later rfl

/-- Bit n of STATUS with another PENDING: BUSY is bit 0 (R32). -/
theorem statusWord_with_pending_getLsbD (s : State) (b : Bool) (n : Nat) :
    (statusWord { s with pending := b }).getLsbD n = if n = 0 then b else (statusWord s).getLsbD n := by
  obtain ⟨hi, h, h'⟩ := statusWord_with_pending s b
  rw [h, h', getLsbD_append_ofBool, getLsbD_append_ofBool]
  split <;> rfl

/-- Settles O46: acceptance writes PENDING, LCMD and LARG, the host then ARG; no register but ARG and STATUS shows
one of them, and STATUS shows PENDING alone. -/
theorem readsWhileBusyReturnOldValues : Obligations.ReadsWhileBusyReturnOldValues := by
  intro s w events rest hp hr hosted h
  have accepted : step s = .next (latch w { s with schedule := events ++ rest }) := by
    rw [step_write h, portWrite_cmd (by exact hr), presentCommand_accepts (by exact hp)]
  obtain ⟨a, x, polled⟩ := runSteps_polling (s := latch w { s with schedule := events ++ rest }) hr hosted rfl
  refine ⟨_, (runSteps_succ _ accepted).trans polled, rfl, rfl, fun r hs ha => ?_, fun n _ => ?_⟩
  · cases r with
    | status => exact absurd rfl hs
    | arg => exact absurd rfl ha
    | _ => rfl
  · exact statusWord_with_pending_getLsbD s true n

/-! ## The tables (R71) -/

/-- The two tables, TABLES_OK and the inverse tables (R35 to R39). -/
def tableRegisters (s : State) : SboxTable × PermTable × Bool × SboxTable × PermTable :=
  (s.sbox, s.perm, s.tablesOk, s.sinv, s.pinv)

theorem completeCommand_tables {s t : State} (h : completeCommand s = .next t) :
    tableRegisters t = tableRegisters s := by
  rcases completeCommand_cases h with ⟨k, rfl⟩ | ⟨i, -, -, rfl⟩
  · simp [tableRegisters]
  · simp [tableRegisters]

theorem coreTurn_tables {s t : State} (h : coreTurn s = .next t) : tableRegisters t = tableRegisters s := by
  unfold coreTurn at h
  split at h
  · exact completeCommand_tables h
  · rw [Host.Outcome.next.injEq] at h
    rw [h]

theorem portWrite_tables (r : PortReg) (v : Word) (s : State) :
    tableRegisters (portWrite r v s) = tableRegisters s := by
  rcases portWrite_cases r v s with e | ⟨-, -, e⟩ | ⟨-, -, e⟩ | ⟨-, e⟩ <;> simp [e, tableRegisters]

/-- A bus access that is not refused is the port access of some register (R67). -/
theorem busAccess_cases {offset size : Nat} {access : PortReg → State} {t : State}
    (h : busAccess offset size access = .next t) : ∃ r, t = access r := by
  unfold busAccess at h
  split at h
  · next r _ => exact ⟨r, (Host.Outcome.next.inj h).symm⟩
  · cases h

/-- No turn but a release of reset changes a table. -/
theorem perform_tables {e : Event} {s t : State} (he : e ≠ .resetRelease) (h : perform e s = .next t) :
    tableRegisters t = tableRegisters s := by
  cases e with
  | core => exact coreTurn_tables h
  | read r =>
    cases h
    rfl
  | write r v =>
    cases h
    exact portWrite_tables r v s
  | busRead offset size =>
    obtain ⟨r, rfl⟩ := busAccess_cases h
    rfl
  | busWrite offset size v =>
    obtain ⟨r, rfl⟩ := busAccess_cases h
    exact portWrite_tables r v s
  | resetAssert =>
    cases h
    rfl
  | resetRelease => exact absurd rfl he

theorem step_tables {s t : State} (hn : s.schedule.head? ≠ some .resetRelease) (h : step s = .next t) :
    tableRegisters t = tableRegisters s := by
  cases hs : s.schedule with
  | nil =>
    rw [step_empty hs] at h
    exact coreTurn_tables h
  | cons e rest =>
    rw [step_event hs] at h
    refine perform_tables (e := e) (s := { s with schedule := rest }) (fun he => hn ?_) h
    rw [hs, he, List.head?_cons]

theorem step_release {s : State} (h : s.schedule.head? = some .resetRelease) :
    step s = .next (releaseReset { s with schedule := s.schedule.tail }) :=
  step_event (List.eq_cons_of_mem_head? h)

theorem releaseReset_not_inReset {s : State} (h : s.inReset = false) : releaseReset s = s := by
  simp [releaseReset, h]

/-- The reset sequence takes SBOX and PERM from the state (R232, log 13). -/
theorem releaseReset_config (s : State) : (releaseReset s).sbox = s.sbox ∧ (releaseReset s).perm = s.perm := by
  unfold releaseReset
  split <;> exact ⟨rfl, rfl⟩

/-- Settles O54: only a release of an asserted reset writes a table, and it keeps SBOX and PERM. -/
theorem tablesAreReadOnly : Obligations.TablesAreReadOnly := by
  intro s t h
  by_cases hn : s.schedule.head? = some .resetRelease
  · rw [step_release hn, Host.Outcome.next.injEq] at h
    subst h
    obtain ⟨hs, hp⟩ := releaseReset_config { s with schedule := s.schedule.tail }
    refine ⟨hs, hp, ?_⟩
    rcases Bool.eq_false_or_eq_true s.inReset with hr | hr
    · exact .inr ⟨hr, hn⟩
    · rw [releaseReset_not_inReset (by exact hr)]
      exact .inl ⟨rfl, rfl, rfl⟩
  · have kept := step_tables hn h
    simp only [tableRegisters, Prod.mk.injEq] at kept
    obtain ⟨hs, hp, inverses⟩ := kept
    exact ⟨hs, hp, .inl inverses⟩

end Sys2Proof.Machine
end

section
/-! PROOFS. Command words: which words decode, and to what (spec/30_encoding.md R80 to R84, R87). -/

namespace Sys2Proof.Machine

/-! ## The fields of a word (R80) -/

/-- The laws of one command each, as one for all commands. -/
theorem encodedFields (i : Instr) : Laws.EncodedFields.Statement i :=
  open Laws.EncodedFields in
  match i with
  | .nop => nop | .ldst => ldst | .xori => xori | .xork k => xork k | .sub => sub | .isub => isub | .perm => perm
  | .iperm => iperm | .getbit => getbit | .ldkey k => ldkey k | .clrkeys => clrkeys | .enc => enc | .dec => dec
  | .ldgk => ldgk | .ldrel => ldrel | .partialInv => partialInv | .check => check | .accum => accum
  | .clrcnt => clrcnt | .bias => bias | .clrerr => clrerr

/-- The three fields make up the whole word. -/
theorem fields_append (w : Word) : rsvField w ++ idxField w ++ opcField w = w := by
  have upper : rsvField w ++ idxField w = w.extractLsb' 8 24 :=
    BitVec.extractLsb'_append_extractLsb'_eq_extractLsb' rfl
  rw [upper]
  exact (BitVec.extractLsb'_append_extractLsb'_eq_extractLsb' rfl).trans BitVec.extractLsb'_eq_self

/-- A word is a command's exactly where its fields are the command's. -/
theorem encode_eq_iff {i : Instr} {w : Word} :
    encode i = w ↔ opcField w = i.opcode ∧ idxField w = i.index ∧ rsvField w = 0 := by
  constructor
  · rintro rfl
    obtain ⟨opc, idx, rsv, -⟩ := encodedFields i
    exact ⟨opc, idx, rsv⟩
  · rintro ⟨opc, idx, rsv⟩
    rw [encode, ← opc, ← idx, show 0#20 = rsvField w from rsv.symm]
    exact fields_append w

theorem opcField_toNat (w : Word) : (opcField w).toNat = w.toNat % 256 := by simp [opcField]

theorem idxField_toNat (w : Word) : (idxField w).toNat = w.toNat / 256 % 16 := by
  simp [idxField, Nat.shiftRight_eq_div_pow]

theorem rsvField_toNat (w : Word) : (rsvField w).toNat = w.toNat / 4096 := by
  have := w.isLt
  simp [rsvField, Nat.shiftRight_eq_div_pow]
  omega

theorem rsvField_eq_zero_iff (w : Word) : rsvField w = 0 ↔ w.toNat / 4096 = 0 := by
  rw [← rsvField_toNat]
  exact BitVec.toNat_inj.symm

theorem idxField_eq_zero_iff (w : Word) : idxField w = 0 ↔ w.toNat / 256 % 16 = 0 := by
  rw [← idxField_toNat]
  exact BitVec.toNat_inj.symm

/-! ## The opcode map (R82) -/

/-- The map gives only a command with the opcode it was asked for, and with the index where it has one. -/
theorem ofOpcode_some {opc : Opcode} {idx : BitVec 4} {i : Instr} (h : ofOpcode opc idx = some i) :
    i.opcode = opc ∧ i.index = if i.usesIndex then idx else 0 := by
  unfold ofOpcode at h
  split at h <;> cases h <;> exact ⟨rfl, rfl⟩

/-! ## Decoding (R83, R84) -/

theorem decode_eq_ok_iff {w : Word} {i : Instr} :
    decode w = .ok i ↔
      ofOpcode (opcField w) (idxField w) = some i ∧ rsvField w = 0 ∧ (i.usesIndex = false → idxField w = 0) := by
  unfold decode
  cases ofOpcode (opcField w) (idxField w) with
  | none => simp
  | some j =>
    rw [Option.some.injEq]
    dsimp only
    split_ifs with reserved stray
    · exact iff_of_false nofun fun ⟨_, rsv, _⟩ => reserved rsv
    · refine iff_of_false nofun ?_
      rintro ⟨rfl, -, noIndex⟩
      exact stray.2 (noIndex stray.1)
    · rw [Except.ok.injEq]
      refine ⟨?_, And.left⟩
      rintro rfl
      exact ⟨rfl, not_not.1 reserved, fun hu => not_not.1 fun hi => stray ⟨hu, hi⟩⟩

/-- A word decodes to a command exactly where it is that command's word. -/
theorem decode_eq_ok_iff_encode_eq {w : Word} {i : Instr} : decode w = .ok i ↔ encode i = w := by
  rw [decode_eq_ok_iff]
  constructor
  · rintro ⟨named, rsv, noIndex⟩
    obtain ⟨opc, idx⟩ := ofOpcode_some named
    refine encode_eq_iff.2 ⟨opc.symm, ?_, rsv⟩
    cases hu : i.usesIndex with
    | true => simp [idx, hu]
    | false => simp [idx, hu, noIndex hu]
  · rintro rfl
    obtain ⟨opc, idx, rsv, noIndex, named⟩ := encodedFields i
    rw [opc, idx]
    exact ⟨named, rsv, noIndex⟩

theorem decode_encode (i : Instr) : decode (encode i) = .ok i := decode_eq_ok_iff_encode_eq.2 rfl

/-- Settles O2: both directions say that a word decodes to a command exactly where it is its word. -/
theorem decodeAndEncodeAgree : Obligations.DecodeAndEncodeAgree :=
  ⟨decode_encode, fun _ _ => decode_eq_ok_iff_encode_eq.1⟩

/-- Settles O1: each word of the table is the one its command encodes to. -/
theorem commandWordsDecode : Obligations.CommandWordsDecode := by
  refine ⟨fun p hp => decode_eq_ok_iff_encode_eq.2 ?_, fun p hp =>
    ⟨decode_eq_ok_iff_encode_eq.2 ?_, decode_eq_ok_iff_encode_eq.2 ?_⟩⟩ <;> fin_cases hp <;> rfl

/-! ## The checks of R83, on the word as a number -/

/-- A word decodes to a command exactly where OPC, IDX and RSV, as numbers, are the command's. -/
theorem decode_eq_ok_iff_toNat {w : Word} {i : Instr} :
    decode w = .ok i ↔
      w.toNat % 256 = i.opcode.toNat ∧ w.toNat / 256 % 16 = i.index.toNat ∧ w.toNat / 4096 = 0 := by
  rw [decode_eq_ok_iff_encode_eq, encode_eq_iff, ← opcField_toNat, ← idxField_toNat, BitVec.toNat_inj,
    BitVec.toNat_inj, rsvField_eq_zero_iff]

/-- The OPC column of R82, as numbers. -/
def OpcodeListed (opc : Nat) : Prop :=
  opc ≤ 0x08 ∨ (0x10 ≤ opc ∧ opc ≤ 0x13) ∨ (0x20 ≤ opc ∧ opc ≤ 0x26) ∨ opc = 0x30

theorem opcode_listed (i : Instr) : OpcodeListed i.opcode.toNat := by
  cases i <;> simp [OpcodeListed, Instr.opcode]

/-- The opcodes of the two commands with a key index, XORK and LDKEY (R80, R82), as numbers. -/
def OpcodeIndexed (opc : Nat) : Prop := opc = 0x03 ∨ opc = 0x10

theorem OpcodeIndexed.listed {opc : Nat} (h : OpcodeIndexed opc) : OpcodeListed opc := by
  unfold OpcodeIndexed at h
  unfold OpcodeListed
  omega

/-- The map names a command for every listed opcode. -/
theorem ofOpcode_listed {opc : Opcode} (idx : BitVec 4) (h : OpcodeListed opc.toNat) :
    ∃ i, ofOpcode opc idx = some i := by
  unfold OpcodeListed at h
  unfold ofOpcode
  split
  case h_22 =>
    -- No row of the map: `opc` differs from every opcode listed.
    simp only [imp_false, ← BitVec.toNat_inj, BitVec.toNat_ofNat] at *
    omega
  all_goals exact ⟨_, rfl⟩

theorem usesIndex_iff (i : Instr) : i.usesIndex = true ↔ OpcodeIndexed i.opcode.toNat := by
  cases i <;> simp [OpcodeIndexed, Instr.usesIndex, Instr.opcode]

theorem index_of_not_indexed {i : Instr} (h : ¬OpcodeIndexed i.opcode.toNat) : i.index = 0 := by
  obtain ⟨-, -, -, noIndex, -⟩ := encodedFields i
  exact noIndex (Bool.eq_false_iff.2 (mt (usesIndex_iff i).1 h))

/-- A word with a listed opcode and RSV = 0, and with no stray index, decodes. -/
theorem decode_of_listed {w : Word} (listed : OpcodeListed (w.toNat % 256)) (rsv : w.toNat / 4096 = 0)
    (noIndex : ¬OpcodeIndexed (w.toNat % 256) → w.toNat / 256 % 16 = 0) :
    ∃ i, decode w = .ok i := by
  obtain ⟨i, named⟩ := ofOpcode_listed (idxField w) (opcField_toNat w ▸ listed)
  obtain ⟨opc, -⟩ := ofOpcode_some named
  refine ⟨i, decode_eq_ok_iff.2 ⟨named, (rsvField_eq_zero_iff w).2 rsv, fun hu => ?_⟩⟩
  rw [← opcField_toNat, ← opc, ← usesIndex_iff, ← idxField_eq_zero_iff] at noIndex
  exact noIndex (by simp [hu])

theorem completeCommand_undecoded {s : State} (h : ∀ i, decode s.lcmd ≠ .ok i) :
    completeCommand s = .next (faulted .illegalCommand s) := by
  cases hd : decode s.lcmd with
  | ok i => exact absurd hd (h i)
  | error e => exact completeCommand_illegal hd

theorem keyIndexIllegal_iff (i : Instr) :
    keyIndexIllegal i = true ↔
      OpcodeIndexed i.opcode.toNat ∧ (i.index.toNat < 1 ∨ 5 < i.index.toNat) := by
  rw [← usesIndex_iff]
  cases i <;> simp [keyIndexIllegal, keyIndexLegal, Instr.usesIndex, Instr.index]

theorem wf_iff (i : Instr) : i.wf = true ↔ keyIndexIllegal i = false := by
  cases i <;> simp [Instr.wf, keyIndexIllegal]

/-- An illegal key index is ConfigurationError, before every other check of the command's rule (R203). -/
theorem exec_illegal_keyIndex {i : Instr} (h : keyIndexIllegal i = true) (s : State) :
    exec i s = .next (faulted .configuration s) :=
  exec_of_reported (by rw [reportedError_eq, if_pos h])

/-- Settles O3: the first three checks each leave no command to decode to; a word that passes them decodes to the
command with its opcode and index, whose first check is the key index. -/
theorem decodingChecksTheWordInOrder : Obligations.DecodingChecksTheWordInOrder := by
  intro s opc idx rsv listed indexed
  refine ⟨fun hl => ?_, fun _ hr => ?_, fun _ _ hn hi => ?_, fun hr hx hi => ?_, fun hl hr hx hn => ?_⟩
  · refine completeCommand_undecoded fun i hd => hl ?_
    obtain ⟨ho, -, -⟩ := decode_eq_ok_iff_toNat.1 hd
    exact (congrArg OpcodeListed ho).mpr (opcode_listed i)
  · refine completeCommand_undecoded fun i hd => hr ?_
    obtain ⟨-, -, rsv⟩ := decode_eq_ok_iff_toNat.1 hd
    exact rsv
  · refine completeCommand_undecoded fun i hd => hi ?_
    obtain ⟨ho, hk, -⟩ := decode_eq_ok_iff_toNat.1 hd
    exact hk.trans (congrArg BitVec.toNat (index_of_not_indexed (ho ▸ hn)))
  · obtain ⟨i, hd⟩ := decode_of_listed (OpcodeIndexed.listed hx) hr (absurd hx)
    obtain ⟨ho, hk, -⟩ := decode_eq_ok_iff_toNat.1 hd
    rw [completeCommand_decoded hd]
    exact exec_illegal_keyIndex ((keyIndexIllegal_iff i).2 ⟨ho ▸ hx, hk ▸ hi⟩) s
  · obtain ⟨i, hd⟩ := decode_of_listed hl hr hn
    obtain ⟨ho, hk, -⟩ := decode_eq_ok_iff_toNat.1 hd
    refine ⟨i, (wf_iff i).2 (Bool.eq_false_iff.2 fun illegal => ?_), ho.symm, hk.symm, completeCommand_decoded hd⟩
    obtain ⟨hx', hi⟩ := (keyIndexIllegal_iff i).1 illegal
    have := hx ((congrArg OpcodeIndexed ho).mpr hx')
    omega

end Sys2Proof.Machine
end

section
/-! PROOFS. The host-side assembly: a pseudo-instruction as the steps of its schedule (spec/30_encoding.md R85, R86). -/

namespace Sys2Proof.Machine

theorem runSteps_add {s t : State} {m : Nat} (n : Nat) (h : runSteps m s = .next t) :
    runSteps (m + n) s = runSteps n t := by
  induction m generalizing s with
  | zero =>
    cases h
    rw [Nat.zero_add]
  | succ m ih =>
    obtain ⟨u, hu⟩ : ∃ u, step s = .next u := by
      unfold runSteps at h
      split at h
      · next u hu => exact ⟨u, hu⟩
      all_goals cases h
    rw [runSteps_succ m hu] at h
    rw [Nat.succ_add, runSteps_succ _ hu, ih h]

/-- Polls of one register change the word last read, nothing else (R63). -/
theorem runSteps_reads {s : State} {r : PortReg} {n : Nat} {rest : List Event}
    (h : s.schedule = List.replicate n (.read r) ++ rest) :
    ∃ x, runSteps n s = .next { s with schedule := rest, rdata := x } := by
  induction n generalizing s with
  | zero => exact ⟨s.rdata, by rw [← show s.schedule = rest from h]; rfl⟩
  | succ n ih =>
    rw [runSteps_succ _ (step_read h)]
    exact ih (s := { s with schedule := _, rdata := _ }) rfl

/-- `wr ARG, v; cmd w` in an idle block: the command is accepted with v as its argument (R64). -/
theorem runSteps_accept {s : State} {v w : Word} {rest : List Event} (hp : s.pending = false) (hr : s.inReset = false)
    (h : s.schedule = .write .arg v :: .write .cmd w :: rest) :
    runSteps 2 s = .next (latch w { s with arg := v, schedule := rest }) := by
  rw [runSteps_succ _ (step_write h), portWrite_arg (by exact hr), runSteps_succ _ (step_write rfl),
    portWrite_cmd (by exact hr), presentCommand_accepts (by exact hp)]
  rfl

/-- No command ends in flight, asserts reset or touches the schedule. -/
theorem exec_keeps_host {i : Instr} {s t : State} (h : exec i s = .next t) :
    t.pending = false ∧ t.inReset = s.inReset ∧ t.schedule = s.schedule := by
  rcases exec_cases h with ⟨-, k, rfl⟩ | ⟨-, rfl⟩ <;> simp

/-- `wait` with a command in flight: the polls change only the word read, the core's turn runs the command, and the last
read is the STATUS it leaves. -/
theorem runSteps_wait {s : State} {i : Instr} {polls : Nat} {rest : List Event} (hp : s.pending = true)
    (hr : s.inReset = false) (hd : decode s.lcmd = .ok i) (h : s.schedule = (Stmt.wait polls).events ++ rest) :
    ∃ x t, exec i { s with schedule := .read .status :: rest, rdata := x } = .next t ∧
      runSteps (polls + 2) s = .next { t with schedule := rest, rdata := statusWord t } ∧ t.pending = false := by
  rw [Stmt.events, List.append_assoc] at h
  obtain ⟨x, polled⟩ := runSteps_reads h
  obtain ⟨t, ht⟩ := exec_answers_next i { s with schedule := .read .status :: rest, rdata := x }
  obtain ⟨idle, released, scheduled⟩ := exec_keeps_host ht
  have turn : step { s with schedule := .core :: .read .status :: rest, rdata := x } = .next t := by
    obtain ⟨-, coreRuns⟩ := stepRunsTheDecodedCommand { s with schedule := _, rdata := x } i hp hr hd
    exact (coreRuns _ rfl).trans ht
  have value : (portRead .status t).rdata = statusWord t := by simp [released, hr, portValue]
  refine ⟨x, t, ht, ?_, idle⟩
  calc runSteps (polls + 2) s
      = runSteps 2 { s with schedule := .core :: .read .status :: rest, rdata := x } := runSteps_add 2 polled
    _ = runSteps 1 t := runSteps_succ 1 turn
    _ = runSteps 0 { t with schedule := rest, rdata := (portRead .status t).rdata } :=
        runSteps_succ 0 (step_read scheduled)
    _ = .next { t with schedule := rest, rdata := statusWord t } := by rw [value]; rfl

/-- BUSY mirrors PENDING (R32, R40). -/
theorem statusWord_busy (s : State) : (statusWord s).getLsbD 0 = s.pending :=
  statusWord_with_pending_getLsbD s s.pending 0

/-- Settles O48: the two writes accept the command with v as its argument, and the wait runs it. -/
theorem pseudoInstructionRunsItsCommand : Obligations.PseudoInstructionRunsItsCommand := by
  intro s i v polls rest hp hr h
  have writes : s.schedule = .write .arg v :: .write .cmd (encode i) :: ((Stmt.wait polls).events ++ rest) := by
    simpa [scheduleOf, pseudoArg, Stmt.events] using h
  have accepted := runSteps_accept hp hr writes
  obtain ⟨x, t, run, waited, idle⟩ := runSteps_wait (s := latch (encode i) { s with arg := v, schedule := _ }) rfl hr
    (decode_encode i) rfl
  refine ⟨_, t, rfl, run, ?_, (statusWord_busy t).trans idle⟩
  rw [Nat.add_comm, show 4 + polls = 2 + (polls + 2) by omega, runSteps_add _ accepted, waited]

end Sys2Proof.Machine
end

section
/-! PROOFS. The layers as functions on blocks: a table and its inverse undo each other, a permutation keeps the bits it
moves, and the default tables' values (spec/40_block_ops.md R100, R101, R103). -/

namespace Sys2Proof.Machine

/-! ## The substitution layer (R100) -/

theorem SboxInverse.symm {t inv : SboxTable} (h : SboxInverse t inv) : SboxInverse inv t := And.symm h

/-- A layer is undone by the layer of the inverse table, nibble by nibble. -/
theorem layer_inverse {t inv : SboxTable} (h : SboxInverse t inv) (v : Block) : layer inv (layer t v) = v :=
  block_ext_nibbles fun n hn => by rw [layer_nibble inv _ hn, layer_nibble t v hn, h.1]

theorem layer_bijective {t inv : SboxTable} (h : SboxInverse t inv) : Function.Bijective (layer t) :=
  Function.bijective_iff_has_inverse.2 ⟨layer inv, layer_inverse h, layer_inverse h.symm⟩

/-! ## The permutation layer (R101) -/

theorem PermInverse.symm {q inv : PermTable} (h : PermInverse q inv) : PermInverse inv q :=
  fun p h₁ h₂ => And.symm (h p h₁ h₂)

/-- Of a table with an inverse, position j of the result comes from the one position the inverse names. -/
theorem bitAt_move_inverse {q inv : PermTable} (h : PermInverse q inv) (v : Block) {j : Nat} (h₁ : 1 ≤ j)
    (h₂ : j ≤ 16) : bitAt (move q v) j = bitAt v (lookPosition inv j) := by
  rw [Bool.eq_iff_iff, bitAt_move q v h₁ h₂]
  constructor
  · rintro ⟨i, i₁, i₂, rfl, hv⟩
    obtain ⟨⟨-, -, back⟩, -⟩ := h i i₁ i₂
    rwa [back]
  · intro hv
    obtain ⟨-, l₁, l₂, forth⟩ := h j h₁ h₂
    exact ⟨lookPosition inv j, l₁, l₂, forth, hv⟩

theorem move_inverse {q inv : PermTable} (h : PermInverse q inv) (v : Block) : move inv (move q v) = v :=
  block_ext_positions fun p h₁ h₂ => by
    obtain ⟨⟨l₁, l₂, back⟩, -⟩ := h p h₁ h₂
    rw [bitAt_move_inverse h.symm _ h₁ h₂, bitAt_move_inverse h _ l₁ l₂, back]

theorem move_bijective {q inv : PermTable} (h : PermInverse q inv) : Function.Bijective (move q) :=
  Function.bijective_iff_has_inverse.2 ⟨move inv, move_inverse h, move_inverse h.symm⟩

theorem bitAt_xor (a b : Block) (p : Nat) : bitAt (a ^^^ b) p = xor (bitAt a p) (bitAt b p) := BitVec.getLsbD_xor

theorem move_xor {q inv : PermTable} (h : PermInverse q inv) (a b : Block) :
    move q (a ^^^ b) = move q a ^^^ move q b :=
  block_ext_positions fun p h₁ h₂ => by simp only [bitAt_xor, bitAt_move_inverse h _ h₁ h₂]

/-- No table makes a 1 from nothing. -/
theorem move_zero (q : PermTable) : move q 0 = 0 :=
  block_ext_positions fun p h₁ h₂ => by
    rw [Bool.eq_iff_iff, bitAt_move q 0 h₁ h₂]
    simp [bitAt]

theorem bitAt_ones {p : Nat} (h₁ : 1 ≤ p) (h₂ : p ≤ 16) : bitAt 0xFFFF#16 p = true := by
  interval_cases p <;> rfl

theorem move_ones {q inv : PermTable} (h : PermInverse q inv) : move q 0xFFFF#16 = 0xFFFF#16 :=
  block_ext_positions fun p h₁ h₂ => by
    obtain ⟨-, l₁, l₂, -⟩ := h p h₁ h₂
    rw [bitAt_move_inverse h _ h₁ h₂, bitAt_ones h₁ h₂, bitAt_ones l₁ l₂]

/-! ## The number of 1 bits (R103) -/

/-- The bits of a block counted by position instead of by bit number (R6). -/
theorem countP_getLsbD_eq_positions (v : Block) :
    (List.range 16).countP (fun n => v.getLsbD n) = (List.range' 1 16).countP (bitAt v) := by
  have numbers : List.range 16 = ((List.range' 1 16).map (16 - ·)).reverse := by decide
  rw [numbers, List.countP_reverse, List.countP_map]
  rfl

/-- A table with an inverse lists the positions 1..16 in some order. -/
theorem perm_map_lookPosition {q inv : PermTable} (h : PermInverse q inv) :
    ((List.range' 1 16).map (lookPosition q)).Perm (List.range' 1 16) := by
  have distinct : ((List.range' 1 16).map (lookPosition q)).Nodup := by
    refine List.Nodup.map_on (fun a ha b hb e => ?_) List.nodup_range'
    rw [List.mem_range'_1] at ha hb
    obtain ⟨⟨-, -, backA⟩, -⟩ := h a ha.1 (by omega)
    obtain ⟨⟨-, -, backB⟩, -⟩ := h b hb.1 (by omega)
    rw [← backA, e, backB]
  refine (List.subperm_of_subset distinct fun j hj => ?_).perm_of_length_le (by simp)
  obtain ⟨p, hp, rfl⟩ := List.mem_map.1 hj
  rw [List.mem_range'_1] at hp ⊢
  obtain ⟨⟨l₁, l₂, -⟩, -⟩ := h p hp.1 (by omega)
  omega

theorem move_popcount {q inv : PermTable} (h : PermInverse q inv) (v : Block) :
    (List.range 16).countP (fun n => (move q v).getLsbD n) = (List.range 16).countP (fun n => v.getLsbD n) := by
  have moved : (List.range' 1 16).countP (bitAt (move q v)) = (List.range' 1 16).countP (bitAt v ∘ lookPosition inv) :=
    List.countP_congr fun p hp => by
      rw [List.mem_range'_1] at hp
      rw [bitAt_move_inverse h v hp.1 (by omega), Function.comp_apply]
  rw [countP_getLsbD_eq_positions, countP_getLsbD_eq_positions, moved, ← List.countP_map]
  exact (perm_map_lookPosition h.symm).countP_eq _

/-- Settles O27: every law is one of the inverse tables, which consistent tables are. -/
theorem layersObeyTheirLaws : Obligations.LayersObeyTheirLaws := by
  intro s ht hc
  obtain ⟨hs, hp⟩ := hc.2 ht
  exact ⟨fun v => ⟨layer_inverse hs v, layer_inverse hs.symm v, move_inverse hp v, move_inverse hp.symm v,
      move_popcount hp v⟩,
    ⟨layer_bijective hs, layer_bijective hs.symm, move_bijective hp, move_bijective hp.symm⟩,
    move_xor hp, move_zero s.perm, move_ones hp⟩

/-! ## The default tables (R36 to R39, log 5) -/

theorem defaultSbox_no_fixed_point (x : Nibble) : lookNibble defaultSbox x ≠ x := by
  revert x
  decide

theorem invertPerm_defaultPerm : invertPerm defaultPerm = defaultPerm := by decide

theorem defaultPerm_self_inverse : PermInverse defaultPerm defaultPerm := by
  have h := permInverse_invertPerm ((bijectivePerm_iff defaultPerm).1 (by decide))
  rwa [invertPerm_defaultPerm] at h

end Sys2Proof.Machine
end

section
/-! PROOFS. The block operations: what each command does where its checks pass, and which error it raises where one does
not (spec/40_block_ops.md R102, R104 to R111). -/

namespace Sys2Proof.Machine

/-! ## The commands with an argument (R104, R105, R111) -/

/-- Settles O14: the operand `blk` is the argument's low half, or RangeError. -/
theorem ldstLoadsTheBlock : Obligations.LdstLoadsTheBlock :=
  ⟨rfl, fun s => ⟨fun h => exec_of_ready (decide_eq_true h),
    fun h => (settle_blkOperand s _).trans (if_neg (Nat.not_lt.2 h))⟩⟩

/-- Settles O15: the operand `blk` is the argument's low half, or RangeError. -/
theorem xoriAddsTheBlock : Obligations.XoriAddsTheBlock :=
  ⟨rfl, fun s => ⟨fun h => exec_of_ready (decide_eq_true h),
    fun h => (settle_blkOperand s _).trans (if_neg (Nat.not_lt.2 h))⟩⟩

/-- Settles O21: the operand `pos` is the argument, or IndexError. -/
theorem getbitReadsThePosition : Obligations.GetbitReadsThePosition :=
  ⟨rfl, fun s => ⟨fun h₁ h₂ => (settle_posOperand s _).trans (if_pos ⟨h₁, h₂⟩),
    fun h => (settle_posOperand s _).trans (if_neg (by omega))⟩⟩

/-! ## The round key (R106) -/

/-- XORK with a legal index adds the key it names, if that key is loaded. -/
theorem exec_xork {k : BitVec 4} {i : Fin 5} (h : k.toNat = i.val + 1) (s : State) :
    exec (.xork k) s =
      if s.kvalid[i] then .next { s with st := s.st ^^^ s.key[i], pending := false }
      else .next (faulted .configuration s) := by
  rw [exec, execXork, keyOperand_ok h]
  exact settle_require s _ _ _

/-- Settles O16: adding a key a second time cancels it. -/
theorem xorkAddsTheRoundKey : Obligations.XorkAddsTheRoundKey := by
  refine ⟨by decide, fun s k => ⟨fun h => ?_, fun i h => ⟨fun hv => ?_, fun hv => ?_⟩⟩⟩
  · exact exec_illegal_keyIndex ((keyIndexIllegal_iff (.xork k)).2 ⟨.inl rfl, h⟩) s
  · simp [exec_xork h, hv]
  · refine ⟨{ s with st := s.st ^^^ s.key[i], pending := false }, by simp [exec_xork h, hv], rfl, ?_⟩
    simp [exec_xork h, hv]

/-! ## The layers (R107 to R110) -/

theorem exec_table_error {i : Instr} (hi : Instr.readsTable i = true) {s : State} (ht : s.tablesOk = false) :
    exec i s = .next (faulted .table s) :=
  exec_of_reported (reportedError_table hi ht)

section TablesOk

variable {s : State} (ht : s.tablesOk = true)
include ht

theorem exec_sub : exec .sub s = .next { s with st := layer s.sbox s.st, pending := false } := exec_of_ready ht

theorem exec_isub : exec .isub s = .next { s with st := layer s.sinv s.st, pending := false } := exec_of_ready ht

theorem exec_perm : exec .perm s = .next { s with st := move s.perm s.st, pending := false } := exec_of_ready ht

theorem exec_iperm : exec .iperm s = .next { s with st := move s.pinv s.st, pending := false } := exec_of_ready ht

/-- ISUB after SUB restores ST. -/
theorem exec_isub_after_sub (h : SboxInverse s.sbox s.sinv) :
    ∃ t, exec .sub s = .next t ∧ exec .isub t = .next { t with st := s.st } := by
  refine ⟨_, exec_sub ht, ?_⟩
  rw [exec_isub (by exact ht), layer_inverse h]

/-- IPERM after PERM restores ST. -/
theorem exec_iperm_after_perm (h : PermInverse s.perm s.pinv) :
    ∃ t, exec .perm s = .next t ∧ exec .iperm t = .next { t with st := s.st } := by
  refine ⟨_, exec_perm ht, ?_⟩
  rw [exec_iperm (by exact ht), move_inverse h]

end TablesOk

/-- Settles O17: the new ST is the layer of the old one, and no entry of the default SBOX is its own place. -/
theorem subSubstitutesEachNibble : Obligations.SubSubstitutesEachNibble := by
  refine ⟨rfl, fun s => ⟨exec_table_error rfl, fun ht => ⟨_, exec_sub ht, fun n hn => layer_nibble _ _ hn, ?_⟩⟩⟩
  intro table
  rw [table]
  refine ⟨fun h => ?_, fun h => ?_, fun h => ?_, fun n hn => ?_⟩
  · rw [h]; decide
  · rw [h]; decide
  · rw [h]; decide
  · rw [layer_nibble _ _ hn]
    exact defaultSbox_no_fixed_point _

/-- Settles O18: the new ST is the layer of the old one under SINV, which undoes the layer under SBOX. -/
theorem isubSubstitutesInversely : Obligations.IsubSubstitutesInversely := by
  refine ⟨rfl, fun s => ⟨exec_table_error rfl, fun ht => ⟨_, exec_isub ht, fun n hn => layer_nibble _ _ hn, ?_⟩,
    fun ht hc => exec_isub_after_sub ht (hc.2 ht).1⟩⟩
  intro table
  rw [table]
  refine ⟨fun h => ?_, fun h => ?_, fun h => ?_⟩
  · rw [h]; decide
  · rw [h]; decide
  · rw [h]; decide

/-- Settles O19: the new ST is the old one moved, a bijection has an inverse table, and the default PERM is its own. -/
theorem permMovesEachBit : Obligations.PermMovesEachBit := by
  refine ⟨rfl, fun s => ⟨exec_table_error rfl, fun ht => ⟨_, exec_perm ht, fun j h₁ h₂ => bitAt_move _ _ h₁ h₂, ?_⟩⟩⟩
  refine ⟨fun h => ?_, fun bij h => ?_, fun table => ⟨fun h => ?_, fun h => ?_, fun h => ?_, ?_⟩⟩
  · rw [h]; exact move_zero s.perm
  · rw [h]; exact move_ones (permInverse_invertPerm ((bijectivePerm_iff _).1 bij))
  · rw [table, h]; decide
  · rw [table, h]; decide
  · rw [table, h]; decide
  · refine ⟨_, _, exec_perm ht, exec_perm ht, ?_⟩
    rw [table]
    exact move_inverse defaultPerm_self_inverse s.st

/-- Settles O20: the new ST is the old one moved under PINV, which undoes the move under PERM; the default PERM is its
own inverse. -/
theorem ipermMovesEachBitBack : Obligations.IpermMovesEachBitBack := by
  refine ⟨rfl, fun s => ⟨exec_table_error rfl,
    fun ht => ⟨_, exec_iperm ht, fun j h₁ h₂ => bitAt_move _ _ h₁ h₂, ?_, ?_⟩,
    fun ht hc => exec_iperm_after_perm ht (hc.2 ht).2⟩⟩
  · intro table h
    rw [table, h]
    decide
  · intro table inverse
    refine ⟨_, exec_perm ht, ?_⟩
    rw [inverse, invertPerm_defaultPerm, table]

end Sys2Proof.Machine
end

section
/-! PROOFS. The round keys and the cipher: what LDKEY and CLRKEYS leave in the keys, and ENC and DEC as functions on
blocks that undo each other (spec/41_cipher.md R140 to R144). -/

namespace Sys2Proof.Machine

/-! ## The round keys (R140, R141) -/

/-- LDKEY with a legal index sets the one key it names, if its argument is a block. -/
theorem exec_ldkey {k : BitVec 4} {i : Fin 5} (h : k.toNat = i.val + 1) (s : State) :
    exec (.ldkey k) s =
      if s.larg.toNat < 65536 then
        .next { s with key := s.key.set i (s.larg.setWidth 16), kvalid := s.kvalid.set i true, pending := false }
      else .next (faulted .range s) := by
  rw [exec, execLdkey, keyOperand_ok h]
  exact settle_blkOperand s _

/-- Settles O22: the key index is checked first, then the argument; both updates are of entry i alone. -/
theorem ldkeyLoadsOneKey : Obligations.LdkeyLoadsOneKey := by
  refine ⟨by decide, fun s k => ⟨fun h => ?_, fun i h => ⟨fun hl => ?_, fun hl => ?_⟩⟩⟩
  · exact exec_illegal_keyIndex ((keyIndexIllegal_iff (.ldkey k)).2 ⟨.inr rfl, h⟩) s
  · rw [exec_ldkey h, if_neg (Nat.not_lt.2 hl)]
  · refine ⟨_, _, (exec_ldkey h s).trans (if_pos hl), Vector.getElem_set_self _, Vector.getElem_set_self _,
      fun j hj => ?_⟩
    have other : i.val ≠ j.val := fun e => hj (Fin.ext e.symm)
    exact ⟨Vector.getElem_set_ne _ _ other, Vector.getElem_set_ne _ _ other⟩

theorem exec_clrkeys (s : State) :
    exec .clrkeys s =
      .next { s with key := Vector.replicate 5 0, kvalid := Vector.replicate 5 false, pending := false } := rfl

theorem eq_replicate_of_forall {α : Type} {n : Nat} {v : Vector α n} {a : α} (h : ∀ i : Fin n, v[i] = a) :
    v = Vector.replicate n a :=
  Vector.ext fun i hi => (h ⟨i, hi⟩).trans (Vector.getElem_replicate hi).symm

/-! ## The errors of ENC and DEC (R142, R143, R203) -/

/-- With good tables and a key missing, ENC and DEC are ConfigurationError. -/
theorem exec_key_missing {i : Instr} (hi : i = .enc ∨ i = .dec) {s : State} (ht : s.tablesOk = true)
    (hk : ∃ j : Fin 5, s.kvalid[j] = false) : exec i s = .next (faulted .configuration s) := by
  obtain ⟨j, hj⟩ := hk
  have missing : ¬allKeysValid s = true := fun all => by simp [allKeysValid_iff.1 all j] at hj
  rcases hi with rfl | rfl
  all_goals exact (settle_needCipher s _).trans ((if_pos ht).trans (if_neg missing))

/-- Settles O23: the keys become the vector of zeros, which they are already where no key is loaded; ENC then misses
the first key. -/
theorem clrkeysClearsTheKeys : Obligations.ClrkeysClearsTheKeys := by
  refine ⟨rfl, fun s => ⟨⟨_, _, _, exec_clrkeys s, rfl, fun i => ?_, fun ht => ?_⟩, fun hz hv => ?_⟩⟩
  · exact ⟨Vector.getElem_replicate _, Vector.getElem_replicate _⟩
  · exact exec_key_missing (.inl rfl) ht ⟨0, rfl⟩
  · obtain ⟨zero, -, -⟩ := hz
    rw [exec_clrkeys, ← eq_replicate_of_forall hv, ← eq_replicate_of_forall fun i => zero i (hv i)]

/-! ## The cipher as a function on blocks (R142, R143, R144) -/

/-- R142's four rounds and the final whitening, under a substitution, a permutation and the five keys. -/
def encipher (sub perm : Block → Block) (key : Vector Block 5) (v : Block) : Block :=
  sub (perm (sub (perm (sub (perm (sub (v ^^^ key[0])) ^^^ key[1])) ^^^ key[2])) ^^^ key[3]) ^^^ key[4]

/-- R143's inverse rounds, under the inverse substitution, the inverse permutation and the five keys. -/
def decipher (isub iperm : Block → Block) (key : Vector Block 5) (v : Block) : Block :=
  isub (iperm (isub (iperm (isub (iperm (isub (v ^^^ key[4]) ^^^ key[3])) ^^^ key[2])) ^^^ key[1])) ^^^ key[0]

section Inverses

variable {sub isub perm iperm : Block → Block}

/-- Deciphering meets each step of enciphering as the last one not yet undone. -/
theorem decipher_encipher (hs : Function.LeftInverse isub sub) (hp : Function.LeftInverse iperm perm)
    (key : Vector Block 5) : Function.LeftInverse (decipher isub iperm key) (encipher sub perm key) := fun v => by
  simp only [decipher, encipher, BitVec.xor_assoc, BitVec.xor_self, BitVec.xor_zero, hs _, hp _]

/-- Enciphering meets each step of deciphering as the last one not yet undone. -/
theorem encipher_decipher (hs : Function.LeftInverse sub isub) (hp : Function.LeftInverse perm iperm)
    (key : Vector Block 5) : Function.LeftInverse (encipher sub perm key) (decipher isub iperm key) := fun v => by
  simp only [decipher, encipher, BitVec.xor_assoc, BitVec.xor_self, BitVec.xor_zero, hs _, hp _]

end Inverses

section KeysLoaded

variable {s : State} (ht : s.tablesOk = true) (hk : ∀ i : Fin 5, s.kvalid[i] = true)
include ht hk

theorem ready_cipher : (s.tablesOk && allKeysValid s) = true := by
  rw [ht, allKeysValid_iff.2 hk, Bool.and_self]

/-- ENC enciphers ST; the state machine's registers are left open (R41). -/
theorem exec_enc : ∃ f : Fsm, exec .enc s =
    .next { s with st := encipher (layer s.sbox) (move s.perm) s.key s.st, fsm := f, pending := false } :=
  ⟨_, exec_of_ready (i := .enc) (ready_cipher ht hk)⟩

/-- DEC deciphers ST; the state machine's registers are left open (R41). -/
theorem exec_dec : ∃ f : Fsm, exec .dec s =
    .next { s with st := decipher (layer s.sinv) (move s.pinv) s.key s.st, fsm := f, pending := false } :=
  ⟨_, exec_of_ready (i := .dec) (ready_cipher ht hk)⟩

end KeysLoaded

/-- Settles O24: the two checks come in order, and the four internal steps are the rounds of `encipher`. -/
theorem encRunsTheFourRounds : Obligations.EncRunsTheFourRounds :=
  ⟨rfl, fun _ => ⟨exec_table_error rfl, exec_key_missing (.inl rfl), exec_enc⟩⟩

/-- Settles O25: the two checks come in order, and the four internal steps are the rounds of `decipher`. -/
theorem decUndoesTheFourRounds : Obligations.DecUndoesTheFourRounds :=
  ⟨rfl, fun _ => ⟨exec_table_error rfl, exec_key_missing (.inr rfl), exec_dec⟩⟩

/-- Settles O26: either command leaves the tables and the keys, so the other one runs, with the layers' inverses. -/
theorem encAndDecAreInverse : Obligations.EncAndDecAreInverse := by
  intro s ht hc hk
  obtain ⟨hs, hp⟩ := hc.2 ht
  constructor
  · obtain ⟨f, enc⟩ := exec_enc ht hk
    obtain ⟨g, dec⟩ := exec_dec (s := { s with st := _, fsm := f, pending := false }) ht hk
    exact ⟨_, _, enc, dec, decipher_encipher (layer_inverse hs) (move_inverse hp) s.key s.st⟩
  · obtain ⟨f, dec⟩ := exec_dec ht hk
    obtain ⟨g, enc⟩ := exec_enc (s := { s with st := _, fsm := f, pending := false }) ht hk
    exact ⟨_, _, dec, enc, encipher_decipher (layer_inverse hs.symm) (move_inverse hp.symm) s.key s.st⟩

end Sys2Proof.Machine
end

section
/-! PROOFS. The bias estimator: what each of its commands answers, which error it raises where a check fails, and what a
corpus of pairs leaves in the counters (spec/42_attack.md). -/

namespace Sys2Proof.Machine

/-! ## Loading the guess and the relation, clearing the counters (R163, R164, R168) -/

/-- Settles O28: the operand `blk` is the argument's low half, or RangeError. -/
theorem ldgkLoadsTheGuess : Obligations.LdgkLoadsTheGuess :=
  ⟨rfl, fun s => ⟨fun h => exec_of_ready (decide_eq_true h),
    fun h => (settle_blkOperand s _).trans (if_neg (Nat.not_lt.2 h))⟩⟩

theorem exec_ldrel (s : State) : exec .ldrel s =
    .next { s with pmask := hiBlock s.larg, umask := loBlock s.larg, rvalid := true, pending := false } := rfl

/-- Settles O29: the halves of a word put together from two masks are the masks. -/
theorem ldrelLoadsTheRelation : Obligations.LdrelLoadsTheRelation := by
  refine ⟨rfl, fun s pm um h => ?_⟩
  rw [exec_ldrel, h, hiBlock_append, loBlock_append]

/-- Settles O34: CLRCNT has no check, and its writes are these. -/
theorem clrcntClearsTheCounters : Obligations.ClrcntClearsTheCounters := ⟨rfl, fun _ => rfl⟩

/-! ## The partial last-round inverse (R160, R165) -/

/-- PARTIAL: its three checks in order, then ST becomes `U(c, GKEY)`. -/
theorem exec_partialInv (s : State) : exec .partialInv s =
    if s.tablesOk then
      if s.gvalid then
        if s.larg.toNat < 65536 then
          .next { s with st := partialInverse s.sinv (s.larg.setWidth 16) s.gkey, pending := false }
        else .next (faulted .range s)
      else .next (faulted .configuration s)
    else .next (faulted .table s) := by
  simp only [exec, execPartialInv, settle_needTables, settle_require, settle_blkOperand]
  rfl

theorem exec_partialInv_ok {s : State} (ht : s.tablesOk = true) (hg : s.gvalid = true) (hl : s.larg.toNat < 65536) :
    exec .partialInv s =
      .next { s with st := partialInverse s.sinv (s.larg.setWidth 16) s.gkey, pending := false } := by
  rw [exec_partialInv, if_pos ht, if_pos hg, if_pos hl]

/-- A ciphertext equal to the guess leaves the inverse table's entry at 0 in every nibble, which is 0xE by default. -/
theorem partialInverse_guess_default (g : Block) : partialInverse (invertSbox defaultSbox) g g = 0xEEEE#16 := by
  rw [partialInverse, BitVec.xor_self]
  decide

/-- Settles O30: three checks in order, then nibble by nibble the table's entry; neither reads the round keys. -/
theorem partialUndoesTheLastLayer : Obligations.PartialUndoesTheLastLayer := by
  refine ⟨rfl, fun s => ⟨exec_table_error rfl, fun ht hg => ?_, fun ht hg hl => ?_, fun ht hg hl => ?_⟩⟩
  · simp [exec_partialInv, ht, hg]
  · rw [exec_partialInv, if_pos ht, if_pos hg, if_neg (Nat.not_lt.2 hl)]
  · refine ⟨_, exec_partialInv_ok ht hg hl, fun n hn => layer_nibble _ _ hn, fun table guess => ?_,
      fun ks => exec_partialInv_ok ht hg hl⟩
    rw [table, guess, partialInverse_guess_default]

/-- Under the last key the partial inverse removes the final whitening and the last substitution (R160's derivation). -/
theorem partialInverse_encipher {sbox sinv : SboxTable} (h : SboxInverse sbox sinv) (perm : Block → Block)
    (key : Vector Block 5) (v : Block) :
    partialInverse sinv (encipher (layer sbox) perm key v) key[4] =
      perm (layer sbox (perm (layer sbox (perm (layer sbox (v ^^^ key[0])) ^^^ key[1])) ^^^ key[2])) ^^^ key[3] := by
  rw [partialInverse, encipher, BitVec.xor_assoc, BitVec.xor_self, BitVec.xor_zero, layer_inverse h]

/-- Settles O32: ENC leaves the tables and the guess, a block is in range as an argument, and the last key removes the
last layer. -/
theorem partialRecoversRoundFourInput : Obligations.PartialRecoversRoundFourInput := by
  intro s ht hc hk hg guess
  obtain ⟨hs, -⟩ := hc.2 ht
  obtain ⟨f, enc⟩ := exec_enc ht hk
  have inRange (b : Block) : (b.setWidth 32).toNat < 65536 := by
    rw [BitVec.toNat_setWidth_of_le (by decide)]
    exact b.isLt
  refine ⟨_, _, enc, exec_partialInv_ok ht hg (inRange _), ?_⟩
  rw [BitVec.setWidth_setWidth_of_le _ (by decide), BitVec.setWidth_eq, guess]
  exact partialInverse_encipher hs _ _ _

/-! ## The relation (R161) -/

/-- Two counts are even or odd together where their sum is even. -/
theorem not_xor_odd_eq_even (a b : Nat) :
    (!xor (decide (a % 2 = 1)) (decide (b % 2 = 1))) = decide ((a + b) % 2 = 0) := by
  rcases Nat.mod_two_eq_zero_or_one a with ha | ha <;> rcases Nat.mod_two_eq_zero_or_one b with hb | hb <;>
    simp [Nat.add_mod, ha, hb]

/-- The relation holds where the selected bits that are 1 are even in number (R161). -/
theorem relHolds_eq_even (pm um p u : Block) : relHolds pm um p u =
    decide (((List.range 16).countP (fun n => (p &&& pm).getLsbD n) +
      (List.range 16).countP (fun n => (u &&& um).getLsbD n)) % 2 = 0) := by
  rw [relHolds, relSum, parity_eq_odd, parity_eq_odd, not_xor_odd_eq_even]

/-- The empty relation holds for every pair (R161's derivation). -/
theorem relHolds_no_masks (p u : Block) : relHolds 0 0 p u = true := by
  simp [relHolds, relSum]

/-- A layer under a mask depends on a nibble of its argument only where the mask touches it (R171). -/
theorem layer_and_mask_congr (t : SboxTable) {v w um : Block}
    (h : ∀ n, n < 4 → um.extractLsb' (4 * n) 4 ≠ 0 → v.extractLsb' (4 * n) 4 = w.extractLsb' (4 * n) 4) :
    layer t v &&& um = layer t w &&& um :=
  block_ext_nibbles fun n hn => by
    rw [BitVec.extractLsb'_and, BitVec.extractLsb'_and, layer_nibble t v hn, layer_nibble t w hn]
    by_cases masked : um.extractLsb' (4 * n) 4 = 0
    · simp [masked]
    · rw [h n hn masked]

/-! ## CHECK and ACCUM (R166, R167) -/

theorem pairHolds_append {s : State} {p c : Block} (h : s.larg = p ++ c) :
    pairHolds s (pairOperand s) = relHolds s.pmask s.umask p (layer s.sinv (c ^^^ s.gkey)) := by
  rw [pairHolds, pairOperand, h, hiBlock_append, loBlock_append, partialInverse]

/-- CHECK: its two checks in order, then RES becomes whether the relation holds. -/
theorem exec_check (s : State) : exec .check s =
    if s.tablesOk then
      if s.gvalid && s.rvalid then .next { s with res := pairHolds s (pairOperand s), pending := false }
      else .next (faulted .configuration s)
    else .next (faulted .table s) :=
  settle_needChecker s _

/-- ACCUM: CHECK's checks and the counter's bound in order, then the pair is counted. -/
theorem exec_accum (s : State) : exec .accum s =
    if s.tablesOk then
      if s.gvalid && s.rvalid then
        if s.total != Config.totalMax then
          .next { s with
            res := pairHolds s (pairOperand s)
            total := countIf true s.total
            matchCnt := countIf (pairHolds s (pairOperand s)) s.matchCnt
            bvalid := false
            pending := false }
        else .next (faulted .configuration s)
      else .next (faulted .configuration s)
    else .next (faulted .table s) := by
  simp only [exec, execAccum, settle_needChecker, settle_require]
  rfl

/-- With good tables and the guess or the relation missing, CHECK and ACCUM are ConfigurationError. -/
theorem exec_relation_missing {i : Instr} (hi : i = .check ∨ i = .accum) {s : State} (ht : s.tablesOk = true)
    (h : s.gvalid = false ∨ s.rvalid = false) : exec i s = .next (faulted .configuration s) := by
  have missing : (s.gvalid && s.rvalid) = false := Bool.and_eq_false_iff.2 h
  rcases hi with rfl | rfl
  · simp [exec_check, ht, missing]
  · simp [exec_accum, ht, missing]

section CheckerReady

variable {s : State} (ht : s.tablesOk = true) (hg : s.gvalid = true) (hr : s.rvalid = true)
include ht hg hr

theorem exec_check_ok : exec .check s = .next { s with res := pairHolds s (pairOperand s), pending := false } := by
  simp [exec_check, ht, hg, hr]

/-- Below the counter's bound ACCUM counts the pair; neither counter wraps. -/
theorem exec_accum_ok (hm : s.matchCnt.toNat ≤ s.total.toNat) (hb : s.total.toNat < 0x7FFFFFFF) :
    ∃ m t : Word,
      exec .accum s = .next { s with
        res := pairHolds s (pairOperand s), total := t, matchCnt := m, bvalid := false, pending := false } ∧
      t.toNat = s.total.toNat + 1 ∧ m.toNat = s.matchCnt.toNat + if pairHolds s (pairOperand s) then 1 else 0 := by
  have notFull : (s.total != Config.totalMax) = true :=
    bne_iff_ne.2 fun e => absurd (congrArg BitVec.toNat e) (Nat.ne_of_lt hb)
  refine ⟨countIf (pairHolds s (pairOperand s)) s.matchCnt, countIf true s.total, ?_, countIf_toNat (by omega), ?_⟩
  · simp [exec_accum, ht, hg, hr, notFull]
  · rw [countIf_toNat (by omega), Bool.toNat, Bool.cond_eq_ite]

end CheckerReady

/-- Settles O31: two checks in order, then the relation's parity as a count of selected bits. -/
theorem checkEvaluatesTheRelation : Obligations.CheckEvaluatesTheRelation := by
  refine ⟨rfl, fun s p c pair => ⟨exec_table_error rfl, exec_relation_missing (.inl rfl), fun ht hg hr => ?_⟩⟩
  have check := exec_check_ok ht hg hr
  rw [pairHolds_append pair] at check
  refine ⟨?_, fun hp hu => ?_⟩
  · rw [check, relHolds_eq_even]
  · rw [check, hp, hu, relHolds_no_masks]

/-- Settles O33: three checks in order, then the flag of CHECK is written and counted. -/
theorem accumCountsThePair : Obligations.AccumCountsThePair := by
  refine ⟨rfl, fun s => ⟨exec_table_error rfl, exec_relation_missing (.inr rfl), fun ht hg hr full => ?_,
    fun ht hg hr hm hb => ?_⟩⟩
  · simp [exec_accum, ht, hg, hr, full, Config.totalMax]
  · obtain ⟨m, t, accum, total, hits⟩ := exec_accum_ok ht hg hr hm hb
    exact ⟨_, _, exec_check_ok ht hg hr, accum, rfl, total, hits⟩

/-! ## Guesses that agree where the relation looks (R171) -/

theorem faulted_with_gkey (k : ErrorKind) (s : State) (g : Block) :
    faulted k { s with gkey := g } = { faulted k s with gkey := g } := by
  simp only [faulted, recordError_eq]
  rfl

/-- The flag of a pair is the same under two guesses that agree on every nibble UMASK touches. -/
theorem pairHolds_with_gkey {s : State} {g : Block}
    (agree : ∀ n, n < 4 → s.umask.extractLsb' (4 * n) 4 ≠ 0 →
      g.extractLsb' (4 * n) 4 = s.gkey.extractLsb' (4 * n) 4)
    (pc : Block × Block) : pairHolds { s with gkey := g } pc = pairHolds s pc := by
  have masked : layer s.sinv (pc.2 ^^^ g) &&& s.umask = layer s.sinv (pc.2 ^^^ s.gkey) &&& s.umask :=
    layer_and_mask_congr s.sinv fun n hn hu => by rw [BitVec.extractLsb'_xor, BitVec.extractLsb'_xor, agree n hn hu]
  simp only [pairHolds, partialInverse, relHolds, relSum, masked]

/-- CHECK and ACCUM: the checks do not read GKEY, and the flag reads it only where UMASK is not 0. -/
theorem exec_with_gkey {i : Instr} (hi : i = .check ∨ i = .accum) {s t : State} {g : Block}
    (agree : ∀ n, n < 4 → s.umask.extractLsb' (4 * n) 4 ≠ 0 →
      g.extractLsb' (4 * n) 4 = s.gkey.extractLsb' (4 * n) 4)
    (h : exec i s = .next t) : exec i { s with gkey := g } = .next { t with gkey := g } := by
  obtain ⟨_, next, rfl⟩ := exec_related (R := fun t t' => t' = { t with gkey := g }) (s' := { s with gkey := g }) h
    (by rcases hi with rfl | rfl <;> rfl)
    (fun k => faulted_with_gkey k s g)
    (fun _ => by rcases hi with rfl | rfl <;> simp only [effect, retire, pairHolds_with_gkey agree] <;> rfl)
  exact next

/-- Settles O37: either command answers the same under both guesses. -/
theorem guessCountsOnlyInMaskedNibbles : Obligations.GuessCountsOnlyInMaskedNibbles :=
  fun _ _ agree => ⟨fun _ => exec_with_gkey (.inl rfl) agree, fun _ => exec_with_gkey (.inr rfl) agree⟩

/-! ## BIAS (R162, R169) -/

/-- The numerator is the distance of 2*MATCH from TOTAL, as integers. -/
theorem biasNumerator_eq_abs (m t : Nat) : (biasNumerator m t : ℤ) = |2 * (m : ℤ) - t| := by
  unfold biasNumerator
  split
  · rw [abs_of_nonneg (by omega)]; omega
  · rw [abs_of_neg (by omega)]; omega

/-- The fraction of numerator and denominator is the distance of the hit rate from one half (R162). -/
theorem biasNumerator_div {m t : Nat} (h : t ≠ 0) :
    (biasNumerator m t : ℚ) / (2 * t : ℕ) = |(m : ℚ) / t - 1 / 2| := by
  have ht : (0 : ℚ) < t := by positivity
  have num : (biasNumerator m t : ℚ) = |2 * (m : ℚ) - t| := by exact_mod_cast biasNumerator_eq_abs m t
  calc (biasNumerator m t : ℚ) / (2 * t : ℕ) = |2 * (m : ℚ) - t| / |2 * (t : ℚ)| := by
        rw [num, abs_of_pos (by positivity : (0 : ℚ) < 2 * t)]; push_cast; rfl
    _ = |(m : ℚ) / t - 1 / 2| := by rw [← abs_div]; congr 1; field_simp

/-- BIAS: its one check, then the numerator and the denominator, narrowed to the registers. -/
theorem exec_bias (s : State) : exec .bias s =
    if s.total != 0 then
      .next { s with
        bnum := BitVec.ofNat 32 (biasNumerator s.matchCnt.toNat s.total.toNat)
        bden := BitVec.ofNat 32 (2 * s.total.toNat)
        bvalid := true
        pending := false }
    else .next (faulted .configuration s) :=
  settle_require s _ _ _

/-- Within the counters' bound neither number loses a bit, and a second BIAS finds the same counters (R29, R169). -/
theorem exec_bias_exact {s : State} (h : s.total ≠ 0) (hb : CountersBounded s) : ∃ t : State,
    exec .bias s = .next t ∧ t = { s with bnum := t.bnum, bden := t.bden, bvalid := true, pending := false } ∧
      t.bnum.toNat = biasNumerator s.matchCnt.toNat s.total.toNat ∧ t.bden.toNat = 2 * s.total.toNat ∧
      exec .bias t = .next t := by
  obtain ⟨hm, ht⟩ := hb
  have bound : s.total.toNat ≤ 0x7FFFFFFF := ht
  have small := biasNumerator_le hm
  have counted : (s.total != 0) = true := bne_iff_ne.2 h
  exact ⟨_, (exec_bias s).trans (if_pos counted), rfl, Nat.mod_eq_of_lt (by omega), Nat.mod_eq_of_lt (by omega),
    (exec_bias _).trans (if_pos counted)⟩

/-- Settles O35: TOTAL = 0 is the one error; the numerator is the absolute value, which is at most TOTAL. -/
theorem biasIsTheExactFraction : Obligations.BiasIsTheExactFraction := by
  refine ⟨rfl, fun s => ⟨fun h => by simp [exec_bias, h], fun h hb => ?_⟩⟩
  obtain ⟨t, bias, frame, num, den, again⟩ := exec_bias_exact h hb
  refine ⟨t, bias, frame, ?_, den, ?_, again⟩
  · rw [num, biasNumerator_eq_abs]
  · rw [num]
    exact biasNumerator_le hb.1

/-- The fraction BIAS writes is |MATCH/TOTAL - 1/2| (R162). -/
theorem exec_bias_fraction {s : State} (h : s.total ≠ 0) (hb : CountersBounded s) : ∃ t : State,
    exec .bias s = .next t ∧
      (t.bnum.toNat : ℚ) / t.bden.toNat = |(s.matchCnt.toNat : ℚ) / s.total.toNat - 1 / 2| := by
  obtain ⟨t, bias, -, num, den, -⟩ := exec_bias_exact h hb
  exact ⟨t, bias, by rw [num, den, biasNumerator_div (BitVec.toNat_ne_iff_ne.2 h)]⟩

/-- Settles O36: a hit rate lies between 0 and 1, so at most 1/2 from 1/2. -/
theorem biasIsTheDeviationFromOneHalf : Obligations.BiasIsTheDeviationFromOneHalf := by
  intro s h hb
  obtain ⟨t, bias, fraction⟩ := exec_bias_fraction h hb
  refine ⟨t, bias, fraction, ?_⟩
  have rate : (s.matchCnt.toNat : ℚ) / s.total.toNat ≤ 1 :=
    div_le_one_of_le₀ (by exact_mod_cast hb.1) (Nat.cast_nonneg _)
  have rate_nonneg : (0 : ℚ) ≤ s.matchCnt.toNat / s.total.toNat := by positivity
  rw [fraction, abs_le]
  constructor <;> linarith

/-! ## A corpus (R170) -/

/-- Feeding a corpus within the counter's bound adds its pairs to TOTAL and its hits to MATCH. -/
theorem accumulateCorpus_counts (corpus : List (Block × Block)) {s : State} (ht : s.tablesOk = true)
    (hg : s.gvalid = true) (hr : s.rvalid = true) (hm : s.matchCnt.toNat ≤ s.total.toNat)
    (hb : s.total.toNat + corpus.length ≤ 0x7FFFFFFF) : ∃ t : State, accumulateCorpus corpus s = .next t ∧
      t.total.toNat = s.total.toNat + corpus.length ∧
      t.matchCnt.toNat = s.matchCnt.toNat + corpus.countP (pairHolds s) := by
  induction corpus generalizing s with
  | nil => exact ⟨s, rfl, rfl, rfl⟩
  | cons pc rest ih =>
    rw [List.length_cons] at hb
    obtain ⟨m, n, accum, (total : n.toNat = s.total.toNat + 1), hits⟩ :=
      exec_accum_ok (s := { s with larg := pc.1 ++ pc.2 }) ht hg hr hm (show s.total.toNat < 0x7FFFFFFF by omega)
    replace hits : m.toNat = s.matchCnt.toNat + if pairHolds s pc then 1 else 0 := by
      rw [hits, pairHolds_append rfl]
      rfl
    obtain ⟨u, fed, total', hits'⟩ := ih (s := { s with
      larg := pc.1 ++ pc.2, res := _, total := n, matchCnt := m, bvalid := false, pending := false }) ht hg hr
      (show m.toNat ≤ n.toNat by split at hits <;> omega) (show n.toNat + rest.length ≤ 0x7FFFFFFF by omega)
    refine ⟨u, ?_, ?_, ?_⟩
    · rw [accumulateCorpus, accum]
      exact fed
    · rw [total', total, List.length_cons, Nat.add_assoc, Nat.add_comm 1]
    · rw [hits', hits, List.countP_cons, Nat.add_assoc, Nat.add_comm (ite _ _ _)]
      rfl

/-- Settles O38: from cleared counters the two counts are the corpus's, and BIAS is their fraction. -/
theorem corpusIsCountedExactly : Obligations.CorpusIsCountedExactly := by
  intro s corpus ht hg hr noPairs noHits nonempty bound
  obtain ⟨t, fed, total, hits⟩ := accumulateCorpus_counts corpus ht hg hr (by simp [noPairs, noHits])
    (by simpa [noPairs] using bound)
  simp only [noPairs, noHits, BitVec.ofNat_eq_ofNat, BitVec.toNat_zero, Nat.zero_add] at total hits
  have counted : t.total ≠ 0 := fun e => nonempty (List.length_eq_zero_iff.1 (by simpa [e] using total.symm))
  have bounded : CountersBounded t := ⟨by rw [hits, total]; exact List.countP_le_length, by rw [total]; exact bound⟩
  obtain ⟨u, bias, fraction⟩ := exec_bias_fraction counted bounded
  rw [hits, total] at fraction
  exact ⟨t, u, fed, bias, total, hits, fraction⟩

end Sys2Proof.Machine
end

section
/-! PROOFS. The control commands: NOP and CLRERR, their malformed words, and why NOP alone is inert
(spec/43_control.md R190, R191). -/

namespace Sys2Proof.Machine

/-! ## Malformed words (R83, R84) -/

/-- The opcode of a command without a key index, in a word that is not the command's, names no command: with the opcode
the index would be given too, and so the whole word. -/
theorem completeCommand_malformed {i : Instr} {s : State} (hu : i.usesIndex = false)
    (opc : s.lcmd.toNat % 256 = i.opcode.toNat) (hw : s.lcmd ≠ encode i) :
    completeCommand s = .next (faulted .illegalCommand s) := by
  refine completeCommand_undecoded fun j hd => hw ?_
  obtain ⟨hj, -, -⟩ := decode_eq_ok_iff_toNat.1 hd
  have sameOpcode : j.opcode = i.opcode := BitVec.eq_of_toNat_eq (hj.symm.trans opc)
  have notIndexed : ¬OpcodeIndexed i.opcode.toNat := (usesIndex_iff i).not.1 (Bool.eq_false_iff.1 hu)
  have sameIndex : j.index = i.index :=
    (index_of_not_indexed (sameOpcode ▸ notIndexed)).trans (index_of_not_indexed notIndexed).symm
  rw [← decode_eq_ok_iff_encode_eq.1 hd, encode, encode, sameOpcode, sameIndex]

/-! ## NOP (R190) -/

theorem exec_nop (s : State) : exec .nop s = .next { s with pending := false } := rfl

/-- The command changes nothing but PENDING, in every state. -/
def Inert (i : Instr) : Prop := ∀ s : State, exec i s = .next { s with pending := false }

/-- A state in which every check a command can make fails: no tables, nothing loaded, nothing counted, and an argument
that is neither a block nor a position. -/
def nothingReady : State := { State.reset with tablesOk := false, larg := 0xFFFFFFFF }

/-- A command that passes its checks in a state where every check fails has no check. -/
theorem ready_nothingReady {i : Instr} (h : ready i nothingReady = true) :
    i ∈ [.nop, .clrkeys, .ldrel, .clrcnt, .clrerr] := by
  cases i with
  | nop | clrkeys | ldrel | clrcnt | clrerr => decide
  | xork k =>
    have unloaded : nothingReady.kvalid[k.toNat - 1]?.getD false = false := by
      simp only [nothingReady, State.reset, State.resetWith, Vector.getElem?_replicate]
      split <;> rfl
    simp [ready, unloaded] at h
  | ldkey k => exact absurd (Bool.and_eq_true_iff.1 h).2 (by decide)
  | _ => exact absurd h (by decide)

section InertCommand

variable {i : Instr} (h : Inert i)
include h

/-- An inert command never records an error, so it passes its checks in a state that has no error recorded. -/
theorem Inert.passes_checks {s : State} (hs : s.err = false) : ready i s = true := by
  by_contra hr
  obtain ⟨k, hk⟩ := exec_of_not_ready (Bool.eq_false_iff.2 hr)
  rw [h s, Host.Outcome.next.injEq] at hk
  have recorded := congrArg State.err hk
  simp [hs] at recorded

/-- Where an inert command passes its checks, its effect is none. -/
theorem Inert.retire_effect {s : State} (hr : ready i s = true) : retire (effect i s) = retire s := by
  have he := exec_of_ready hr
  rw [h s, Host.Outcome.next.injEq] at he
  exact he.symm

/-- NOP alone is inert: a command with a check reports an error where the check fails, and each of the four others
without a check changes a register of some state. -/
theorem Inert.eq_nop : i = .nop := by
  have unchecked := ready_nothingReady (h.passes_checks (s := nothingReady) rfl)
  simp only [List.mem_cons, List.not_mem_nil, or_false] at unchecked
  rcases unchecked with rfl | rfl | rfl | rfl | rfl
  · rfl
  · have keys := congrArg State.kvalid
      (h.retire_effect (s := { State.reset with kvalid := Vector.replicate 5 true }) rfl)
    exact absurd keys (by decide)
  · have relation := congrArg State.rvalid (h.retire_effect (s := State.reset) rfl)
    exact absurd relation (by decide)
  · have count := congrArg State.total (h.retire_effect (s := { State.reset with total := 1 }) rfl)
    exact absurd count (by decide)
  · have record := congrArg State.err (h.retire_effect (s := { State.reset with err := true }) rfl)
    exact absurd record (by decide)

end InertCommand

/-- Settles O13: NOP has no check and no write, and every other command has one of the two. -/
theorem nopOnlyCompletes : Obligations.NopOnlyCompletes :=
  ⟨rfl, exec_nop, fun _ opc hw => completeCommand_malformed (i := .nop) rfl opc hw, fun _ h => Inert.eq_nop h⟩

/-! ## CLRERR (R191) -/

theorem exec_clrerr (s : State) : exec .clrerr s =
    .next { s with err := false, errOvf := false, ecode := 0, eop := 0, pending := false } := rfl

/-- With no error recorded a legal record is the empty one, so clearing it changes nothing (R33). -/
theorem clearErrorRecord_of_no_error {s : State} (hl : ErrorRecordLegal s) (he : s.err = false) :
    clearErrorRecord s = s := by
  obtain ⟨hc, ho, hv⟩ := hl.2 he
  have empty : errorRecord s = (false, false, 0, 0) := by rw [errorRecord, he, hv, hc, ho]
  exact congrArg (withErrorRecord s) empty.symm

/-- A CMD write while CLRERR is in flight is an Overrun, which leaves CLRERR in flight and is cleared by it (R206). -/
theorem completeCommand_clrerr_after_overrun {s : State} (w : Word) (hp : s.pending = true)
    (hw : s.lcmd = encode .clrerr) :
    completeCommand (presentCommand w s) =
      .next (retire (clearErrorRecord (recordError .overrun (w.extractLsb' 0 8) s))) := by
  rw [presentCommand_overrun hp, completeCommand_decoded (i := .clrerr)]
  · rfl
  · rw [recordError_lcmd, hw, decode_encode]

/-- Settles O40: CLRERR has no check and writes the record alone, one that an Overrun has filled too. -/
theorem clrerrEmptiesTheRecord : Obligations.ClrerrEmptiesTheRecord := by
  refine ⟨rfl, fun s => ⟨exec_clrerr s, fun hl he => ?_, fun opc hw => ?_⟩, fun s w hp hw => ?_⟩
  · exact congrArg (fun t => Host.Outcome.next (retire t)) (clearErrorRecord_of_no_error hl he)
  · exact ⟨_, completeCommand_malformed (i := .clrerr) rfl opc hw, faulted_err _ _, rfl⟩
  · exact ⟨_, completeCommand_clrerr_after_overrun w hp hw, rfl, rfl⟩

end Sys2Proof.Machine
end

section
/-! PROOFS. The error record: what is recorded, which error, and how long it stays; and that no step stops at an error
(spec/60_exceptions.md R200 to R206, R212). -/

namespace Sys2Proof.Machine

/-! ## Recording an error (R200, R205) -/

/-- Settles O8: an error finds ERR clear or set, and `faulted` records it and retires the command. -/
theorem firstErrorIsRecorded : Obligations.FirstErrorIsRecorded := by
  refine ⟨fun _ _ _ => ⟨recordError_first, recordError_later⟩, fun _ _ => rfl, rfl, rfl, rfl, rfl, rfl, rfl,
    fun k => ?_⟩
  cases k <;> decide

/-! ## Which error is reported (R201, R203) -/

/-- Every command but CLRERR leaves the record to the errors. -/
theorem effect_errorRecord {i : Instr} (hi : i ≠ .clrerr) (s : State) : errorRecord (effect i s) = errorRecord s :=
  not_ne_iff.1 (mt effect_errorRecord_writers hi)

/-- Settles O9: a reported error is the command's whole completion, and without one its effect writes no record. -/
theorem firstApplicableErrorIsReported : Obligations.FirstApplicableErrorIsReported :=
  ⟨fun _ _ => completeCommand_illegal, fun _ s => ⟨fun _ => exec_of_reported, fun unreported =>
    ⟨_, exec_of_unreported unreported, rfl, fun hi => effect_errorRecord hi s⟩⟩⟩

/-! ## What an error writes (R204) -/

/-- Two states that differ in the error record at most. -/
def RecordEquiv (s s' : State) : Prop := s' = withErrorRecord s (errorRecord s')

theorem recordEquiv_retire_faulted (k : ErrorKind) (s : State) : RecordEquiv (retire s) (faulted k s) := by
  simp only [RecordEquiv, faulted, recordError_eq]
  rfl

/-- A word that names no command, or a check that fails, ends the command in flight with an error. -/
theorem completeCommand_faults {s : State}
    (h : (∃ e, decode s.lcmd = .error e) ∨ ∃ i k, decode s.lcmd = .ok i ∧ reportedError i s = some k) :
    ∃ k, completeCommand s = .next (faulted k s) := by
  rcases h with ⟨e, illegal⟩ | ⟨i, k, decoded, reported⟩
  · exact ⟨.illegalCommand, completeCommand_illegal illegal⟩
  · exact ⟨k, (completeCommand_decoded decoded).trans (exec_of_reported reported)⟩

/-- Settles O10: either kind of fault ends in `faulted`, which writes the record and PENDING alone. -/
theorem errorsArePrecise : Obligations.ErrorsArePrecise := by
  intro s h
  obtain ⟨k, faults⟩ := completeCommand_faults h
  exact ⟨_, faults, faulted_pending k s, faulted_err k s, recordEquiv_retire_faulted k s⟩

/-! ## Nothing but the record depends on the record (R206) -/

theorem faulted_withErrorRecord (k : ErrorKind) (s : State) (r : Bool × Bool × BitVec 3 × Opcode) :
    RecordEquiv (faulted k s) (faulted k (withErrorRecord s r)) := by
  simp only [RecordEquiv, faulted, recordError_eq]
  rfl

theorem effect_withErrorRecord (i : Instr) (s : State) (r : Bool × Bool × BitVec 3 × Opcode) :
    RecordEquiv (effect i s) (effect i (withErrorRecord s r)) := by cases i <;> rfl

theorem completeCommand_withErrorRecord {s t : State} (r : Bool × Bool × BitVec 3 × Opcode)
    (h : completeCommand s = .next t) :
    ∃ t', completeCommand (withErrorRecord s r) = .next t' ∧ RecordEquiv t t' := by
  cases hd : decode s.lcmd with
  | ok i =>
    rw [completeCommand_decoded hd] at h
    rw [completeCommand_decoded (by exact hd)]
    exact exec_related h rfl (faulted_withErrorRecord · s r)
      (fun _ => congrArg retire (effect_withErrorRecord i s r))
  | error e =>
    rw [completeCommand_illegal hd, Host.Outcome.next.injEq] at h
    rw [completeCommand_illegal (by exact hd)]
    exact ⟨_, rfl, h ▸ faulted_withErrorRecord .illegalCommand s r⟩

/-- Settles O11: no check and no effect reads the record, and PENDING alone decides whether a command is accepted. -/
theorem errorsDoNotBlockLaterCommands : Obligations.ErrorsDoNotBlockLaterCommands := by
  refine ⟨fun s t r h => ?_, fun s w r hp => ?_⟩
  · obtain ⟨t', completes, same⟩ := completeCommand_withErrorRecord r h
    exact ⟨_, completes.trans (congrArg _ same)⟩
  · exact presentCommand_accepts hp

/-! ## How long the first error stays (R206) -/

/-- What R206 promises of a recorded error: `t` still has it, as `s` had it, with ERR_OVF set if it was. -/
def KeepsFirstError (s t : State) : Prop :=
  t.err = true ∧ t.ecode = s.ecode ∧ t.eop = s.eop ∧ (s.errOvf = true → t.errOvf = true)

/-- The turn completes a CLRERR. -/
def ClearsRecord (s : State) : Prop := s.pending = true ∧ s.inReset = false ∧ decode s.lcmd = .ok .clrerr

section Recorded

variable {s t : State} (he : s.err = true)
include he

theorem keepsFirstError_of_errorRecord (h : errorRecord t = errorRecord s) : KeepsFirstError s t := by
  simp only [errorRecord, Prod.mk.injEq] at h
  obtain ⟨err, errOvf, ecode, eop⟩ := h
  exact ⟨err.trans he, ecode, eop, errOvf.trans⟩

theorem recordError_keepsFirstError (k : ErrorKind) (op : Opcode) : KeepsFirstError s (recordError k op s) := by
  rw [recordError_later he]
  exact ⟨he, rfl, rfl, fun _ => rfl⟩

theorem coreTurn_keepsFirstError (h : coreTurn s = .next t) : KeepsFirstError s t ∨ ClearsRecord s := by
  unfold coreTurn at h
  split at h
  · next busy =>
    obtain ⟨hp, hr⟩ : s.pending = true ∧ s.inReset = false := by simpa using busy
    rcases completeCommand_cases h with ⟨k, rfl⟩ | ⟨i, decoded, -, rfl⟩
    · exact .inl (recordError_keepsFirstError he k _)
    · by_cases hi : i = .clrerr
      · exact .inr ⟨hp, hr, hi ▸ decoded⟩
      · exact .inl (keepsFirstError_of_errorRecord he (effect_errorRecord hi s))
  · cases h
    exact .inl (keepsFirstError_of_errorRecord he rfl)

theorem portWrite_keepsFirstError (r : PortReg) (v : Word) : KeepsFirstError s (portWrite r v s) := by
  rcases portWrite_cases r v s with e | ⟨-, -, e⟩ | ⟨-, -, e⟩ | ⟨-, e⟩ <;> rw [e]
  · exact keepsFirstError_of_errorRecord he rfl
  · exact keepsFirstError_of_errorRecord he rfl
  · exact recordError_keepsFirstError he _ _
  · exact keepsFirstError_of_errorRecord he rfl

/-- Of all turns only the core's, completing a CLRERR, and a release of an asserted reset clear the record. -/
theorem perform_keepsFirstError {e : Event} (h : perform e s = .next t) :
    KeepsFirstError s t ∨ (e = .core ∧ ClearsRecord s) ∨ (e = .resetRelease ∧ s.inReset = true) := by
  cases e with
  | core => exact (coreTurn_keepsFirstError he h).imp_right fun clears => .inl ⟨rfl, clears⟩
  | read r =>
    cases h
    exact .inl (keepsFirstError_of_errorRecord he rfl)
  | write r v =>
    cases h
    exact .inl (portWrite_keepsFirstError he r v)
  | busRead offset size =>
    obtain ⟨r, rfl⟩ := busAccess_cases h
    exact .inl (keepsFirstError_of_errorRecord he rfl)
  | busWrite offset size v =>
    obtain ⟨r, rfl⟩ := busAccess_cases h
    exact .inl (portWrite_keepsFirstError he r v)
  | resetAssert =>
    cases h
    exact .inl (keepsFirstError_of_errorRecord he rfl)
  | resetRelease =>
    cases h
    rcases Bool.eq_false_or_eq_true s.inReset with hr | hr
    · exact .inr (.inr ⟨rfl, hr⟩)
    · rw [releaseReset_not_inReset hr]
      exact .inl (keepsFirstError_of_errorRecord he rfl)

end Recorded

/-- Settles O12: the step is the core's turn or the first event's, and each keeps the first error but for the two. -/
theorem firstErrorStaysUntilCleared : Obligations.FirstErrorStaysUntilCleared := by
  intro s t he h
  cases hs : s.schedule with
  | nil =>
    rw [step_empty hs] at h
    rcases coreTurn_keepsFirstError he h with keeps | ⟨hp, hr, decoded⟩
    · exact .inl keeps
    · exact .inr (.inl ⟨hp, hr, decoded, .inl rfl⟩)
  | cons e rest =>
    rw [step_event hs] at h
    rcases perform_keepsFirstError (s := { s with schedule := rest }) he h with
      keeps | ⟨rfl, hp, hr, decoded⟩ | ⟨rfl, hr⟩
    · exact .inl keeps
    · exact .inr (.inl ⟨hp, hr, decoded, .inr rfl⟩)
    · exact .inr (.inr ⟨hr, rfl⟩)

/-! ## No step stops at an error (R204, R212) -/

/-- Settles O7: with PENDING = 0 the core's turn changes nothing. -/
theorem idleBlockDoesNothing : Obligations.IdleBlockDoesNothing :=
  fun _ hp => ⟨fun h => (step_empty h).trans (coreTurn_idle hp), fun _ h => (step_event h).trans (coreTurn_idle hp)⟩

/-- A bus access of one whole register is a port access, and any other is refused (R67). -/
theorem busAccess_answers (offset size : Nat) (access : PortReg → State) :
    (∃ t, busAccess offset size access = .next t) ∨
      (busAccess offset size access = .refused .notOneWholeRegister ∧
        ¬(size = 4 ∧ offset % 4 = 0 ∧ offset < 64)) := by
  by_cases whole : size = 4 ∧ offset % 4 = 0 ∧ offset < 64
  · obtain ⟨rfl, aligned, inside⟩ := whole
    obtain ⟨r, hr⟩ := index_surjective (BitVec.ofNat 4 (offset / 4))
    have place : 4 * r.index.toNat = offset := by
      rw [hr, BitVec.toNat_ofNat]
      omega
    exact .inl ⟨_, place ▸ busAccess_register r access⟩
  · exact .inr ⟨busAccess_refused whole access, whole⟩

/-- Every event but a bus access answers a next state. -/
theorem perform_answers (e : Event) (s : State) :
    (∃ t, perform e s = .next t) ∨
      (perform e s = .refused .notOneWholeRegister ∧ ∃ offset size, ¬(size = 4 ∧ offset % 4 = 0 ∧ offset < 64) ∧
        (e = .busRead offset size ∨ ∃ v, e = .busWrite offset size v)) := by
  cases e with
  | core => exact .inl (coreTurn_answers_next s)
  | busRead offset size =>
    exact (busAccess_answers offset size _).imp_right fun ⟨refused, partly⟩ =>
      ⟨refused, offset, size, partly, .inl rfl⟩
  | busWrite offset size v =>
    exact (busAccess_answers offset size _).imp_right fun ⟨refused, partly⟩ =>
      ⟨refused, offset, size, partly, .inr ⟨v, rfl⟩⟩
  | _ => exact .inl ⟨_, rfl⟩

/-- Settles O6: the core's turn always answers, and of the events only a bus access can be refused. -/
theorem stepStopsOnlyOnPartialBusAccess : Obligations.StepStopsOnlyOnPartialBusAccess := by
  intro s
  cases hs : s.schedule with
  | nil =>
    rw [step_empty hs]
    exact .inl (coreTurn_answers_next s)
  | cons e rest =>
    rw [step_event hs]
    refine (perform_answers e _).imp_right fun ⟨refused, offset, size, partly, access⟩ =>
      ⟨refused, offset, size, rest, partly, ?_⟩
    rcases access with rfl | ⟨v, rfl⟩
    · exact .inl rfl
    · exact .inr ⟨v, rfl⟩

end Sys2Proof.Machine
end

section
/-! PROOFS. Several instances: they share nothing, and the host reduces their counters (spec/60_exceptions.md R210). -/

namespace Sys2Proof.Machine

/-- What a step of a system can do, in all: nothing, where it has no entry `j`, or the entry's own step. -/
theorem systemStep_cases {j : Nat} {sys sys' : System} (h : systemStep j sys = .next sys') :
    (sys[j]? = none ∧ sys' = sys) ∨ ∃ s t, sys[j]? = some s ∧ step s = .next t ∧ sys' = sys.set j t := by
  unfold systemStep at h
  split at h
  · next absent =>
    cases h
    exact .inl ⟨absent, rfl⟩
  · next s present =>
    split at h
    · next t stepped =>
      cases h
      exact .inr ⟨s, t, present, stepped, rfl⟩
    all_goals cases h

/-- Settles O58: a system's step replaces entry `j` by its next state. -/
theorem instancesShareNothing : Obligations.InstancesShareNothing := by
  intro sys sys' j h
  rcases systemStep_cases h with ⟨absent, rfl⟩ | ⟨s, t, present, stepped, rfl⟩
  · exact ⟨rfl, fun _ _ => rfl, fun s hs => by simp [absent] at hs⟩
  · refine ⟨List.length_set, fun k hk => List.getElem?_set_ne hk.symm, fun s' hs => ?_⟩
    obtain rfl : s = s' := Option.some.inj (present.symm.trans hs)
    exact ⟨t, stepped, List.getElem?_set_self (List.getElem?_eq_some_iff.1 hs).1⟩

/-! ## The reduction of the counters -/

/-- A state from which ACCUM counts pairs by the flag `hit`, with both counters at 0 (R167). -/
structure CountsFresh (hit : Block × Block → Bool) (s : State) : Prop where
  tables : s.tablesOk = true
  guess : s.gvalid = true
  relation : s.rvalid = true
  noPairs : s.total = 0
  noHits : s.matchCnt = 0
  flag : pairHolds s = hit

/-- A corpus fed from cleared counters leaves its size in TOTAL and its number of hits in MATCH. -/
theorem CountsFresh.counts {hit : Block × Block → Bool} {s t : State} {corpus : List (Block × Block)}
    (h : CountsFresh hit s) (bound : corpus.length ≤ 0x7FFFFFFF) (fed : accumulateCorpus corpus s = .next t) :
    t.total.toNat = corpus.length ∧ t.matchCnt.toNat = corpus.countP hit := by
  obtain ⟨u, fed', total, hits⟩ := accumulateCorpus_counts corpus h.tables h.guess h.relation
    (by simp [h.noPairs, h.noHits]) (by simpa [h.noPairs] using bound)
  obtain rfl : u = t := Host.Outcome.next.inj (fed'.symm.trans fed)
  simpa [h.noPairs, h.noHits, h.flag] using And.intro total hits

/-- The counters of the instances add up to the counts of the whole corpus. -/
theorem sum_counters {hit : Block × Block → Bool} {runs : List (State × List (Block × Block))} {sys : System}
    (fresh : ∀ r ∈ runs, CountsFresh hit r.1 ∧ r.2.length ≤ 0x7FFFFFFF)
    (fed : List.Forall₂ (fun r t => accumulateCorpus r.2 r.1 = .next t) runs sys) :
    (sys.map fun s => s.total.toNat).sum = (runs.map (·.2)).flatten.length ∧
      (sys.map fun s => s.matchCnt.toNat).sum = (runs.map (·.2)).flatten.countP hit := by
  induction fed with
  | nil => exact ⟨rfl, rfl⟩
  | cons part parts ih =>
    obtain ⟨⟨first, bound⟩, later⟩ := List.forall_mem_cons.1 fresh
    obtain ⟨total, hits⟩ := first.counts bound part
    obtain ⟨totals, allHits⟩ := ih later
    simp [total, hits, totals, allHits]

/-- Settles O59: the sums of the counters are the whole corpus's counts, and the numerator is their distance. -/
theorem countersReduceToTheCorpusBias : Obligations.CountersReduceToTheCorpusBias := by
  intro g pm um sinv runs sys legal fed corpus holds
  obtain ⟨totals, hits⟩ := sum_counters (hit := fun pc => relHolds pm um pc.1 (layer sinv (pc.2 ^^^ g)))
    (fun r hr => by
      obtain ⟨tables, guess, relation, noPairs, noHits, rfl, rfl, rfl, rfl, bound⟩ := legal r hr
      exact ⟨⟨tables, guess, relation, noPairs, noHits, rfl⟩, bound⟩) fed
  have reduced : corpusBias sys = (biasNumerator holds corpus.length, 2 * corpus.length) := by
    simp only [corpusBias, totals, hits, holds, corpus]
  rw [reduced]
  exact ⟨biasNumerator_eq_abs holds corpus.length, rfl⟩

end Sys2Proof.Machine
end

section
/-! PROOFS. Reset: what the reset sequence leaves, and what reaches the block while reset is asserted
(spec/70_reset_and_hazards.md R230 to R232). -/

namespace Sys2Proof.Machine

/-! ## After the reset sequence (R231) -/

theorem resetWith_keys (c : Config) (i : Fin 5) :
    (State.resetWith c).key[i] = 0 ∧ (State.resetWith c).kvalid[i] = false := by
  simp [State.resetWith]

/-- The reset sequence's error record turns on the self-check alone (R232). -/
theorem resetWith_errorRecord (c : Config) :
    errorRecord (State.resetWith c) =
      if selfCheck c.sbox c.perm then (false, false, 0, 0) else (true, false, 4, 0xFF#8) := by
  simp only [errorRecord, State.resetWith]
  cases selfCheck c.sbox c.perm <;> rfl

theorem resetWith_passed {c : Config} (ok : (State.resetWith c).tablesOk = true) :
    errorRecord (State.resetWith c) = (false, false, 0, 0) := by
  rw [resetWith_errorRecord]
  exact if_pos ok

theorem resetWith_failed {c : Config} (bad : (State.resetWith c).tablesOk = false) :
    errorRecord (State.resetWith c) = (true, false, 4, 0xFF#8) := by
  rw [resetWith_errorRecord]
  exact if_neg (Bool.eq_false_iff.1 bad)

/-- Settles O50: the record follows the self-check, the inverse tables are those of consistent tables, and every other
register has one value for all tables. -/
theorem resetValues : Obligations.ResetValues := by
  refine ⟨fun c => ?_, rfl, by decide⟩
  have inverses := (resetWith_tables c).2
  exact ⟨rfl, rfl, resetWith_keys c, rfl, rfl, rfl, rfl, rfl, rfl, rfl, rfl, rfl, rfl, rfl, rfl, rfl, rfl, rfl, rfl,
    fun ok => ⟨resetWith_passed ok, inverses ok⟩, resetWith_failed⟩

/-- Settles O56: the invariant was proved of the reset state for every choice of tables. -/
theorem resetIsLegal : Obligations.ResetIsLegal := resetWith_inv

/-! ## While reset is asserted (R230) -/

section Held

variable {s : State} (h : s.inReset = true)
include h

theorem portRead_inReset_returns_zero (r : PortReg) : (portRead r s).rdata = 0 := if_pos h

/-- The core completes nothing, whatever PENDING holds. -/
theorem coreTurn_inReset : coreTurn s = .next s := by
  simp [coreTurn, h]

theorem releaseReset_inReset :
    releaseReset s =
      { State.resetWith { sbox := s.sbox, perm := s.perm } with schedule := s.schedule, rdata := s.rdata } := if_pos h

end Held

/-- Settles O53: each turn takes its event from the schedule, and what the event then does is the port's, the core's or
the reset input's rule for an asserted reset. -/
theorem resetAbandonsTheCommand : Obligations.ResetAbandonsTheCommand := by
  intro s rest
  refine ⟨step_event, fun held => ⟨fun r v write => ?_, fun r read => ?_, fun core => ?_, fun release => ?_⟩⟩
  · rw [step_write write, portWrite_inReset (by exact held)]
  · rw [step_read read, portRead_inReset_returns_zero held]
  · exact (step_event core).trans (coreTurn_inReset held)
  · rw [step_event release]
    exact congrArg Host.Outcome.next (releaseReset_inReset (s := { s with schedule := rest }) held)

end Sys2Proof.Machine
end
